-- ==== Sys2Proof/Word.lean ====
section
/-! DEFINITION. The word types of the frame encoder block: bytes, command words, the CRC register (spec/00_scope.md R4, R5). -/

namespace Sys2Proof

/-- A byte: bit 7 is the most significant, bit 0 the least (R5). -/
abbrev Byte := BitVec 8

/-- A command word `cmd[9:0]` (R30). -/
abbrev CmdWord := BitVec 10

/-- A value of the 16-bit CRC register (R4, R12). -/
abbrev Crc := BitVec 16

end Sys2Proof
end

