-- ==== Sys2Proof/Config.lean ====
section
/-! DEFINITION. What one implementation of the block fixes and the spec leaves open (spec/00_scope.md R4; U2).
The constants the spec does fix (R4, R18) stand in Sys2Proof/Machine/Constants.lean. -/

namespace Sys2Proof

/-- How many places the output queue has beyond the four every implementation has.
OPEN in the spec (D5, U2): no body, so nothing can be proved of its value (DESIGN CHOICE of form, log entry 1). -/
opaque Config.extraPlaces : Nat

/-- `OUTQ_CAP`: a natural number that is at least 4, otherwise open (R4, R15, D5). -/
def Config.outqCap : Nat := Config.extraPlaces + 4

end Sys2Proof
end

