-- ==== Sys2Proof/Syntax.lean ====
section
/-! DEFINITION. The commands of the block, one constructor per row of spec/opcode_table.json (R31). -/

namespace Sys2Proof

/-- A decoded command. The field `d` of NOP, START and END is ignored and not kept (R33). -/
inductive Instr where
  /-- NOP (R61). -/
  | nop
  /-- START (R62). -/
  | start
  /-- DATA b: the payload byte, exactly as written (R32, R63). -/
  | data (b : Byte)
  /-- END (R64). -/
  | endFrame
  deriving DecidableEq, Repr

end Sys2Proof
end

