-- ==== Sys2Proof/Listing.lean ====
section
/-! DEFINITION. The lines of a command listing: the four commands and the pseudo-instructions (spec/30_encoding.md R35, R36),
and the reasons an assembler rejects a line. -/

namespace Sys2Proof

/-- One line of a listing, its numbers and characters not yet checked (`Line.wf` checks them). -/
inductive Line where
  | nop
  | start
  | data (n : Nat)
  | endFrame
  /-- `FRAME b0, ..., b(n-1)`, or `FRAME` with no operands (R36). -/
  | frame (ns : List Nat)
  /-- `FRAME "<text>"`: a frame of a text's characters (spec/95_test_vectors.md P4; DEDUCED, log entry 12). -/
  | frameText (cs : List Char)
  /-- `BYTES b0, ..., b(n-1)` (R36). -/
  | bytes (ns : List Nat)
  /-- `ASCII "<text>"` (R36). -/
  | ascii (cs : List Char)
  deriving DecidableEq, Repr

/-- Why the assembler rejects a line: R35's "Anything else is an assembly error". -/
inductive AsmError where
  /-- The first word of the line is no mnemonic and no pseudo-instruction of R35, R36. -/
  | unknownMnemonic
  /-- An operand stands where none may, is missing, or is no number or quoted text. -/
  | badOperand
  /-- The operands read, but a number is above 255, a character is not printable ASCII, or BYTES has no operand (`Line.wf`). -/
  | outOfRange
  deriving DecidableEq, Repr

end Sys2Proof
end

