-- ==== Sys2Proof/WellFormed.lean ====
section
/-! DEFINITION. Well-formedness of commands and of listing lines (spec/30_encoding.md R32, R35, R36). -/

namespace Sys2Proof

/-- Every term of `Instr` is a command: DATA's operand is a byte by its type (R32), and R34 reserves no encoding. -/
def Instr.wf : Instr → Bool
  | .nop => true
  | .start => true
  | .data _ => true
  | .endFrame => true

/-- `0..255` (R35). -/
def byteInRange (n : Nat) : Bool := n ≤ 255

/-- Printable ASCII, 0x20 to 0x7E (R36). -/
def printable (c : Char) : Bool := 0x20 ≤ c.toNat && c.toNat ≤ 0x7E

/-- The checks of R35 and R36 on a line's operands. BYTES takes at least one byte (DESIGN CHOICE, log entry 12);
the text of FRAME has the characters of ASCII's (DEDUCED, log entry 12). -/
def Line.wf : Line → Bool
  | .nop => true
  | .start => true
  | .data n => byteInRange n
  | .endFrame => true
  | .frame ns => ns.all byteInRange
  | .frameText cs => cs.all printable
  | .bytes ns => !ns.isEmpty && ns.all byteInRange
  | .ascii cs => cs.all printable

end Sys2Proof
end

