-- ==== Sys2Proof/Decode.lean ====
section
/-! DEFINITION. Decoding a command word and encoding a command (spec/30_encoding.md R30 to R34). -/

namespace Sys2Proof

/-- The field `op = cmd[9:8]` (R30). -/
def opField (w : CmdWord) : BitVec 2 := w.extractLsb' 8 2

/-- The field `d = cmd[7:0]` (R30). -/
def dField (w : CmdWord) : Byte := w.extractLsb' 0 8

/-- The operation codes (R31). -/
def opNop : BitVec 2 := 0b00
/-- The operation code of START (R31). -/
def opStart : BitVec 2 := 0b01
/-- The operation code of DATA (R31). -/
def opData : BitVec 2 := 0b10

/-- The decoder of R31: total, by `op` alone; `d` is DATA's operand (R32) and ignored otherwise (R33). -/
def decode (w : CmdWord) : Instr :=
  if opField w = opNop then .nop
  else if opField w = opStart then .start
  else if opField w = opData then .data (dField w)
  else .endFrame

/-- Why a number is not taken as a command word. No ten-bit word is ever rejected (R34). -/
inductive DecodeError where
  /-- The number needs more than the ten bits of a command word (R30). -/
  | notTenBits
  deriving DecidableEq, Repr

/-- The decoder on a number: the ten-bit words decode, anything wider is rejected by name (DESIGN CHOICE,
log entry 11). -/
def decodeBits (w : Nat) : Except DecodeError Instr :=
  if w < 2 ^ 10 then .ok (decode (BitVec.ofNat 10 w)) else .error .notTenBits

/-- The instruction the decoder reads from a table word of `nbits` bits. -/
def decodeTableWord (nbits w : Nat) : Option Instr :=
  match decodeBits (w % 2 ^ nbits) with
  | .ok i => some i
  | .error _ => none

/-- The canonical word of a command, with `cmd[7:0] = 0x00` where it is ignored (R33, R35). -/
def encode : Instr → CmdWord
  | .nop => 0x000#10
  | .start => 0x100#10
  | .data b => 0x200#10 ||| b.setWidth 10
  | .endFrame => 0x300#10

end Sys2Proof
end

