-- ==== Sys2Proof/Machine/Constants.lean ====
section
/-! DEFINITION. The fixed constants of the block (spec/00_scope.md R4; spec/40_crc_frame.md R40 to R42, R44).
No command, input or register changes them (R18). The source's literals are unaudited (U7; UNVERIFIED, log entry 10). -/

namespace Sys2Proof.Machine

/-- The generator polynomial in normal form (R42). -/
def poly : Crc := 0x8005#16

/-- The reflected polynomial the shift-right update XORs in (R44). -/
def polyR : Crc := 0xA001#16

/-- The CRC init value (R42). -/
def crcInit : Crc := 0xFFFF#16

/-- The final XOR (R42: none). -/
def crcXorOut : Crc := 0x0000#16

/-- `PRE` (R40). -/
def preamble : List Byte := [0xEE#8, 0xEF#8]

/-- `POST` (R41). -/
def postamble : List Byte := [0x0D#8, 0x0A#8]

end Sys2Proof.Machine
end

