-- ==== Sys2Proof/Machine/State.lean ====
section
/-! DEFINITION. The state of the block as plain data (spec/10_state.md R10 to R15, R19), the reset input,
and the other agents' part (spec/41_commands.md R60, R67). -/

namespace Sys2Proof.Machine

/-- The sequencing state `st` (R11). -/
inductive SeqState where
  | idle
  | frame
  deriving DecidableEq, Repr

/-- One turn of one agent (R60, R67, R80). -/
inductive Turn where
  /-- The block accepts the presented command if it may. -/
  | block
  /-- The sink takes the head byte if there is one. -/
  | sink
  /-- The producer presents one more word, behind those still waiting. -/
  | present (w : CmdWord)
  /-- The environment drives `rst` to this level. -/
  | reset (level : Bool)
  deriving DecidableEq, Repr

/-- Nothing stops the block (R71: "The block does not stop, halt or trap"; R13), so no step faults:
a sequencing error is recorded in `err` and `cause` and the block goes on (DESIGN CHOICE, log entry 8). -/
inductive Fault : Type
  deriving DecidableEq, Repr

/-- Why a command has no meaning in the model. -/
inductive Refusal where
  /-- Raised by an arm of `exec` that has no meaning yet; no arm does. Safe. -/
  | notModelled (mnemonic : String)
  deriving DecidableEq, Repr

/-- The five fields of R10, the level of the reset input (R80), and the model's own fields for the producer,
the sink and the schedule (log entries 2, 3, 14). -/
@[ext]
structure State where
  /-- Whether a frame is open (R11). -/
  st : SeqState
  /-- The CRC accumulator, in reflected form (R12). -/
  crc : Crc
  /-- The sticky sequencing-error flag (R13). -/
  err : Bool
  /-- The code of the first sequencing error since reset (R14). -/
  cause : BitVec 2
  /-- The output queue, head first (R15). -/
  outq : List Byte
  /-- The level of the reset input (R80, R81). -/
  rst : Bool
  /-- The words presented and not yet accepted, oldest first: the head is on the command input (R60, D2;
  DESIGN CHOICE, log entry 3). -/
  cmdIn : List CmdWord
  /-- The bytes the sink has taken, oldest first (R67; DESIGN CHOICE, log entry 14). -/
  taken : List Byte
  /-- Whose turns come next; when none is left, the block has every turn (DESIGN CHOICE, log entry 2). -/
  agenda : List Turn
  deriving DecidableEq, Repr

/-- The machine right after reset (R19, R80), with `rst` low again and the other agents at rest
(DESIGN CHOICE, log entry 5). -/
def State.reset : State where
  st := .idle
  crc := crcInit
  err := false
  cause := 0
  outq := []
  rst := false
  cmdIn := []
  taken := []
  agenda := []

end Sys2Proof.Machine
end

