-- ==== Sys2Proof/Machine/Flags.lean ====
section
/-! DEFINITION. The error flag and its cause (spec/60_exceptions.md R70, R71; spec/10_state.md R13, R14). -/

namespace Sys2Proof.Machine

/-- The sequencing errors, the block's only exception (R70). -/
inductive SeqError where
  | dataInIdle
  | endInIdle
  | startInFrame
  deriving DecidableEq, Repr

/-- The code recorded in `cause` (R70). -/
def SeqError.code : SeqError → BitVec 2
  | .dataInIdle => 1
  | .endInIdle => 2
  | .startInFrame => 3

/-- `cause` after an error: the first error wins (R71). -/
def causeAfter (err : Bool) (cause : BitVec 2) (e : SeqError) : BitVec 2 := if err then cause else e.code

end Sys2Proof.Machine
end

