-- ==== Sys2Proof/Machine/Crc.lean ====
section
/-! DEFINITION. The normative CRC-16/MODBUS computation (spec/40_crc_frame.md R45, R46). -/

namespace Sys2Proof.Machine

/-- One round of the loop of R45: shift right, and XOR the reflected polynomial in when a 1 falls out. -/
def crcBit (c : Crc) : Crc := if c.getLsbD 0 then (c >>> 1) ^^^ polyR else c >>> 1

/-- `f` applied `n` times. -/
def iterTimes {α : Type} (f : α → α) : Nat → α → α
  | 0, x => x
  | n + 1, x => iterTimes f n (f x)

/-- `crc_upd(c, b)` (R45). -/
def crcUpd (c : Crc) (b : Byte) : Crc := iterTimes crcBit 8 (c ^^^ b.setWidth 16)

/-- `crc16_modbus(p)` (R46): no step after the loop, since the final XOR is 0. -/
def crc16Modbus (p : List Byte) : Crc := p.foldl crcUpd crcInit

end Sys2Proof.Machine
end

