-- ==== Sys2Proof/Machine/Frame.lean ====
section
/-! DEFINITION. The frame of a payload (spec/40_crc_frame.md R48, R49). -/

namespace Sys2Proof.Machine

/-- `be16(c)`: the most significant byte first (R48, R21). -/
def be16 (c : Crc) : List Byte := [c.extractLsb' 8 8, c.extractLsb' 0 8]

/-- `encode(p)` of the source (R49); `Sys2Proof.encode` is the encoder of commands. -/
def encodeFrame (p : List Byte) : List Byte := preamble ++ p ++ be16 (crc16Modbus p) ++ postamble

end Sys2Proof.Machine
end

