-- ==== Sys2Proof/Machine/Operands.lean ====
section
/-! DEFINITION. The one operand form of the block: DATA's payload byte (spec/30_encoding.md R32), and the bytes
each command appends for it (spec/41_commands.md R62 to R64). -/

namespace Sys2Proof.Machine

/-- The payload byte as emitted: unchanged (R32, R22, R53). -/
def payloadBytes (b : Byte) : List Byte := [b]

/-- The bytes that close a frame whose checksum is `c`: the checksum, most significant byte first, then the postamble (R64). -/
def closingBytes (c : Crc) : List Byte := be16 c ++ postamble

end Sys2Proof.Machine
end

