-- ==== Sys2Proof/Machine/Ops.lean ====
section
/-! DEFINITION. The operations over the state that the commands and the turns share (spec/00_scope.md R7;
spec/41_commands.md R60, R67; spec/60_exceptions.md R71; spec/70_reset_and_hazards.md R80, R81). -/

namespace Sys2Proof.Machine

/-- `S.st <- v`. -/
def setSt (v : SeqState) (s : State) : State := { s with st := v }

/-- `S.crc <- c`. -/
def setCrc (c : Crc) (s : State) : State := { s with crc := c }

/-- `emit` of each byte in turn: appended at the tail of the output queue (R7, R15). -/
def emit (bs : List Byte) (s : State) : State := { s with outq := s.outq ++ bs }

/-- `raise SeqError(code)` (R71): the block's whole exception. There is no handler and no return from it (R74). -/
def raiseSeqError (e : SeqError) (s : State) : State :=
  { s with err := true, cause := causeAfter s.err s.cause e }

/-- `on reset` (R80): every field of R10 takes its reset value; what the producer presents and what the sink
has already taken are outside the block. -/
def resetBlock (s : State) : State :=
  { s with st := State.reset.st, crc := State.reset.crc, err := State.reset.err,
           cause := State.reset.cause, outq := State.reset.outq }

/-- The environment drives `rst`; an asserted `rst` resets the block (R80). -/
def driveRst (level : Bool) (s : State) : State :=
  if level then resetBlock { s with rst := true } else { s with rst := false }

/-- While `rst` = 1 the state stays at the reset values (R81; DEDUCED: at every step, since `rst` is a level,
log entry 4). -/
def holdReset (s : State) : State := if s.rst then resetBlock s else s

/-- The sink receives `b`, and `q` is left in the queue. -/
def deliver (b : Byte) (q : List Byte) (s : State) : State := { s with outq := q, taken := s.taken ++ [b] }

/-- The sink's turn (R67): nothing happens unless `rst` = 0 and a byte is there. -/
def sinkTake (s : State) : State :=
  match s.rst, s.outq with
  | false, b :: q => deliver b q s
  | _, _ => s

/-- The producer's turn (R60): one more word behind those it already presents. -/
def present (w : CmdWord) (s : State) : State := { s with cmdIn := s.cmdIn ++ [w] }

/-- The head of the command input has been accepted; `ws` is left (R60, D2). -/
def consume (ws : List CmdWord) (s : State) : State := { s with cmdIn := ws }

/-- Whose turn it is (DESIGN CHOICE, log entry 2). -/
def currentTurn (s : State) : Turn :=
  match s.agenda with
  | [] => .block
  | t :: _ => t

/-- The turn is over. -/
def endTurn (s : State) : State := { s with agenda := s.agenda.tail }

/-- `need(op, st)` (R60): the bytes a command appends. -/
def need : Instr → SeqState → Nat
  | .nop, _ => 0
  | .start, .idle => 2
  | .start, .frame => 0
  | .data _, .frame => 1
  | .data _, .idle => 0
  | .endFrame, .frame => 4
  | .endFrame, .idle => 0

/-- `accept(S, cmd) enabled` (R60), for an output queue of capacity `cap`. The subtraction stops at 0, so a
command of need 0 has room whatever the queue holds (DEDUCED, log entry 17). -/
def acceptEnabled (cap : Nat) (i : Instr) (s : State) : Bool :=
  !s.rst && decide (cap - s.outq.length ≥ need i s.st)

end Sys2Proof.Machine
end

