-- ==== Sys2Proof/Machine/Framing.lean ====
section
/-! DEFINITION. The meanings of NOP, START, DATA and END (spec/41_commands.md R61 to R64): `step_cmd` of R60, taken
only when the command is accepted. -/

namespace Sys2Proof.Machine

/-- NOP (R61): no change. -/
def execNop (s : State) : Host.Outcome State Fault Refusal := .next s

/-- START (R62): in IDLE, open a frame and emit the preamble; in FRAME, SeqError(3). -/
def execStart (s : State) : Host.Outcome State Fault Refusal :=
  match s.st with
  | .frame => .next (raiseSeqError .startInFrame s)
  | .idle => .next (setSt .frame (emit preamble (setCrc crcInit s)))

/-- DATA b (R63): in FRAME, emit the byte and fold it into the CRC; in IDLE, SeqError(1). -/
def execData (b : Byte) (s : State) : Host.Outcome State Fault Refusal :=
  match s.st with
  | .idle => .next (raiseSeqError .dataInIdle s)
  | .frame => .next (setCrc (crcUpd s.crc b) (emit (payloadBytes b) s))

/-- END (R64): in FRAME, emit the checksum and the postamble and close the frame, `crc` kept (D14);
in IDLE, SeqError(2). -/
def execEnd (s : State) : Host.Outcome State Fault Refusal :=
  match s.st with
  | .idle => .next (raiseSeqError .endInIdle s)
  | .frame => .next (setSt .idle (emit (closingBytes s.crc) s))

end Sys2Proof.Machine
end

