-- ==== Sys2Proof/Machine/Dispatch.lean ====
section
/-! DEFINITION. `step_cmd` of spec/41_commands.md R60: one arm per command. -/

namespace Sys2Proof.Machine

def exec (i : Instr) (s : State) : Host.Outcome State Fault Refusal :=
  match i with
  | .nop => Sys2Proof.Machine.execNop s
  | .start => Sys2Proof.Machine.execStart s
  | .data b => Sys2Proof.Machine.execData b s
  | .endFrame => Sys2Proof.Machine.execEnd s

end Sys2Proof.Machine
end

