-- ==== Sys2Proof/Machine/Turns.lean ====
section
/-! DEFINITION. One turn of one agent (spec/41_commands.md R60, R67; spec/70_reset_and_hazards.md R80, R81), for an
output queue of capacity `cap`: the spec's open parameter, taken as an argument (R4). -/

namespace Sys2Proof.Machine

/-- The block's turn (R60): an accepted command is consumed and has its whole effect; a command that may not be
accepted waits, neither consumed nor lost. -/
def blockTurn (cap : Nat) (s : State) : Host.Outcome State Fault Refusal :=
  match s.cmdIn with
  | [] => .next s
  | w :: ws => if acceptEnabled cap (decode w) s then exec (decode w) (consume ws s) else .next s

/-- The effect of a turn. -/
def takeTurn (cap : Nat) (t : Turn) (s : State) : Host.Outcome State Fault Refusal :=
  match t with
  | .block => blockTurn cap s
  | .sink => .next (sinkTake s)
  | .present w => .next (present w s)
  | .reset level => .next (driveRst level s)

/-- One step: the agent whose turn it is takes it, `rst` holding the block at its reset values while it is high. -/
def stepWith (cap : Nat) (s : State) : Host.Outcome State Fault Refusal :=
  takeTurn cap (currentTurn s) (endTurn (holdReset s))

/-- `s` with the command word `w` presented first, the block's turn next and `rst` low, so that the next step
accepts it if the queue has room (DESIGN CHOICE, log entry 6). -/
def presentNow (w : CmdWord) (s : State) : State :=
  { s with cmdIn := w :: s.cmdIn, agenda := .block :: s.agenda, rst := false }

end Sys2Proof.Machine
end

