-- ==== Sys2Proof/Machine/Step.lean ====
section
/-! DEFINITION. The step of the machine, and placing a command where the step takes its next one. -/

namespace Sys2Proof.Machine

/-- One step of the block, its producer, its sink and its reset input, at the open capacity `OUTQ_CAP` (R4). -/
def step (s : State) : Host.Outcome State Fault Refusal := stepWith Config.outqCap s

/-- `s` with the table word `w` of `nbits` bits presented as the next command. -/
def State.withFetchWord (s : State) (nbits w : Nat) : State :=
  presentNow (BitVec.ofNat 10 (w % 2 ^ nbits)) s

end Sys2Proof.Machine
end

