-- ==== Sys2Proof/Machine/Runs.lean ====
section
/-! DEFINITION. Sequences of commands and of steps, in the terms the laws of spec/41_commands.md R65 to R69 use. -/

namespace Sys2Proof.Machine

/-- The commands one after another, each accepted (R23). -/
def execAll : List Instr → State → Host.Outcome State Fault Refusal
  | [], s => .next s
  | i :: is, s =>
    match exec i s with
    | .next t => execAll is t
    | .fault r => .fault r
    | .refused r => .refused r

/-- `k` steps. -/
def runSteps : Nat → State → Host.Outcome State Fault Refusal
  | 0, s => .next s
  | k + 1, s =>
    match step s with
    | .next t => runSteps k t
    | .fault r => .fault r
    | .refused r => .refused r

/-- `FRAME p` (R36): START, one DATA per payload byte, END. -/
def frameCommands (p : List Byte) : List Instr := .start :: p.map .data ++ [.endFrame]

/-- The payload bytes among some commands, in order (R66). -/
def payloadOf : List Instr → List Byte
  | [] => []
  | .data b :: is => b :: payloadOf is
  | .nop :: is => payloadOf is
  | .start :: is => payloadOf is
  | .endFrame :: is => payloadOf is

/-- The state the sequencing is in after a command, legal or not (R11). -/
def seqAfter : Instr → SeqState → SeqState
  | .start, _ => .frame
  | .endFrame, _ => .idle
  | .nop, v => v
  | .data _, v => v

/-- Whether a command is legal in a sequencing state (R11, R70). -/
def legalIn : Instr → SeqState → Bool
  | .nop, _ => true
  | .start, v => v == .idle
  | .data _, v => v == .frame
  | .endFrame, v => v == .frame

/-- The commands with every erroring one deleted, from sequencing state `v` (R69). -/
def dropErrors : SeqState → List Instr → List Instr
  | _, [] => []
  | v, i :: is => if legalIn i v then i :: dropErrors (seqAfter i v) is else dropErrors v is

/-- The words a turn presents (R60). -/
def Turn.presents : Turn → List CmdWord
  | .present w => [w]
  | .block => []
  | .sink => []
  | .reset _ => []

/-- A turn that asserts `rst` (R80). -/
def Turn.assertsReset : Turn → Bool
  | .reset level => level
  | .block => false
  | .sink => false
  | .present _ => false

/-- A turn that releases `rst` (R81). -/
def Turn.releasesReset : Turn → Bool
  | .reset level => !level
  | .block => false
  | .sink => false
  | .present _ => false

end Sys2Proof.Machine
end

