-- ==== Sys2Proof/Machine/Assembler.lean ====
section
/-! DEFINITION. The listing syntax of the commands (spec/30_encoding.md R35, R36): reading a line, expanding it into
commands, assembling a listing into words, and disassembling a word. A line is a list of characters; what R35 leaves
open of the syntax is a DESIGN CHOICE, log entry 12. -/

namespace Sys2Proof.Machine

/-- Space or tab. -/
def isBlank (c : Char) : Bool := c == ' ' || c == '\t'

/-- A line without its comment: `;` to the end of the line, outside a quoted text (R35). -/
def stripComment : Bool → List Char → List Char
  | _, [] => []
  | quoted, '"' :: cs => '"' :: stripComment (!quoted) cs
  | false, ';' :: _ => []
  | quoted, c :: cs => c :: stripComment quoted cs

/-- A text without blanks at its ends. -/
def trim (cs : List Char) : List Char := (((cs.dropWhile isBlank).reverse).dropWhile isBlank).reverse

/-- The pieces of a text between commas. -/
def splitCommas : List Char → List (List Char)
  | [] => [[]]
  | c :: cs =>
    match splitCommas cs with
    | [] => [[c]]
    | p :: ps => if c == ',' then [] :: p :: ps else (c :: p) :: ps

/-- The value of a digit below `base`, for a base up to 16. -/
def digitValue (base : Nat) (c : Char) : Option Nat :=
  let v := if '0' ≤ c ∧ c ≤ '9' then c.toNat - 48
    else if 'A' ≤ c ∧ c ≤ 'F' then c.toNat - 55
    else if 'a' ≤ c ∧ c ≤ 'f' then c.toNat - 87
    else 16
  if v < base then some v else none

/-- The value of a run of digits. -/
def digitsValue (base : Nat) : Nat → List Char → Option Nat
  | acc, [] => some acc
  | acc, c :: cs => (digitValue base c).bind fun v => digitsValue base (acc * base + v) cs

/-- A number: `0x` and hex digits, or decimal digits (R35). -/
def readNumber : List Char → Option Nat
  | [] => none
  | '0' :: 'x' :: [] => none
  | '0' :: 'x' :: c :: cs => digitsValue 16 0 (c :: cs)
  | c :: cs => digitsValue 10 0 (c :: cs)

/-- The operands of FRAME and BYTES: numbers between commas, or none at all. -/
def readNumbers (cs : List Char) : Option (List Nat) :=
  if cs.isEmpty then some [] else (splitCommas cs).mapM fun p => readNumber (trim p)

/-- A text in quotes, with no quote inside it. -/
def readQuoted : List Char → Option (List Char)
  | '"' :: cs =>
    match cs.reverse with
    | '"' :: rest => if rest.contains '"' then none else some rest.reverse
    | _ => none
  | _ => none

/-- A line that must have no operand. -/
def noOperand (l : Line) (args : List Char) : Except AsmError (Option Line) :=
  if args.isEmpty then .ok (some l) else .error .badOperand

/-- A line whose operand has been read, if it could be. -/
def withOperand {α : Type} (f : α → Line) : Option α → Except AsmError (Option Line)
  | some a => .ok (some (f a))
  | none => .error .badOperand

/-- The operand of FRAME: a text in quotes, as program P4 of spec/95_test_vectors.md writes it (DEDUCED, log entry 12),
or numbers (R36). -/
def readFrameOperand (args : List Char) : Option Line :=
  if args.head? = some '"' then (readQuoted args).map .frameText else (readNumbers args).map .frame

/-- One line of a listing (R35, R36): nothing (blank or comment only), a line, or an assembly error. -/
def parseLine (text : List Char) : Except AsmError (Option Line) :=
  let body := trim (stripComment false text)
  let word := body.takeWhile fun c => !isBlank c
  let args := trim (body.dropWhile fun c => !isBlank c)
  if body.isEmpty then .ok none
  else if word = ['N', 'O', 'P'] then noOperand .nop args
  else if word = ['S', 'T', 'A', 'R', 'T'] then noOperand .start args
  else if word = ['D', 'A', 'T', 'A'] then withOperand .data (readNumber args)
  else if word = ['E', 'N', 'D'] then noOperand .endFrame args
  else if word = ['F', 'R', 'A', 'M', 'E'] then withOperand id (readFrameOperand args)
  else if word = ['B', 'Y', 'T', 'E', 'S'] then withOperand .bytes (readNumbers args)
  else if word = ['A', 'S', 'C', 'I', 'I'] then withOperand .ascii (readQuoted args)
  else .error .unknownMnemonic

/-- DATA of each number. -/
def dataOf (ns : List Nat) : List Instr := ns.map fun n => .data (BitVec.ofNat 8 n)

/-- The commands a line stands for (R35, R36). -/
def expand : Line → List Instr
  | .nop => [.nop]
  | .start => [.start]
  | .data n => dataOf [n]
  | .endFrame => [.endFrame]
  | .frame ns => .start :: dataOf ns ++ [.endFrame]
  | .frameText cs => .start :: dataOf (cs.map Char.toNat) ++ [.endFrame]
  | .bytes ns => dataOf ns
  | .ascii cs => dataOf (cs.map Char.toNat)

/-- The words of one line: the canonical words of R33. -/
def assembleLine (text : List Char) : Except AsmError (List CmdWord) :=
  match parseLine text with
  | .error e => .error e
  | .ok none => .ok []
  | .ok (some l) => if l.wf then .ok ((expand l).map encode) else .error .outOfRange

/-- The words of a listing, or the first error in it. -/
def assemble : List (List Char) → Except AsmError (List CmdWord)
  | [] => .ok []
  | l :: ls =>
    match assembleLine l, assemble ls with
    | .ok ws, .ok rest => .ok (ws ++ rest)
    | .error e, _ => .error e
    | .ok _, .error e => .error e

/-- An upper-case hex digit (R8). -/
def hexDigit (n : Nat) : Char := Char.ofNat (if n < 10 then 48 + n else 55 + n)

/-- A command as a disassembler prints it (R35). R35 gives NOP, START and END their mnemonic alone and leaves open how
DATA's byte is printed: `0x` and two upper-case hex digits (DESIGN CHOICE, log entry 12). -/
def printInstr : Instr → List Char
  | .nop => ['N', 'O', 'P']
  | .start => ['S', 'T', 'A', 'R', 'T']
  | .data b => ['D', 'A', 'T', 'A', ' ', '0', 'x', hexDigit (b.toNat / 16), hexDigit (b.toNat % 16)]
  | .endFrame => ['E', 'N', 'D']

/-- The disassembler (R35): any word with `op` = 00, 01 or 11 by its mnemonic alone. -/
def disassemble (w : CmdWord) : List Char := printInstr (decode w)

end Sys2Proof.Machine
end

