-- ==== Sys2Proof/Machine/CrcModel.lean ====
section
/-! DEFINITION. The reference CRC of spec/40_crc_frame.md R43, written from the parameters of R42
(reflect each byte, divide, reflect the remainder), apart from the shift-right form the commands use. -/

namespace Sys2Proof.Machine

/-- `rev_n` (R43): bit `i` of the result is bit `n - 1 - i` of `v`. -/
def revBits {n : Nat} (v : BitVec n) : BitVec n := v.reverse

/-- One round of the inner loop of R43. -/
def modelBit (r : Crc) : Crc := if r.getLsbD 15 then (r <<< 1) ^^^ poly else r <<< 1

/-- The body of the outer loop of R43. -/
def modelByte (r : Crc) (b : Byte) : Crc := iterTimes modelBit 8 (r ^^^ ((revBits b).setWidth 16 <<< 8))

/-- `crc_model(p)` (R43). -/
def crcModel (p : List Byte) : Crc := revBits (p.foldl modelByte crcInit) ^^^ crcXorOut

end Sys2Proof.Machine
end

