-- ==== Sys2Proof/Machine/Instances.lean ====
section
/-! DEFINITION. Several instances of the block (spec/60_exceptions.md R78): a list of states, each with its own ports,
and a step of one of them. -/

namespace Sys2Proof.Machine

/-- Instance `n` steps; the others see nothing of it. `caps n` is the capacity of its output queue: instances may have
different ones (DESIGN CHOICE, log entry 13: the spec leaves open whether OUTQ_CAP is common to all), and the constant
`fun _ => Config.outqCap` makes them equal. An absent instance does nothing (DESIGN CHOICE, log entry 13). -/
def stepInstance (caps : Nat → Nat) (n : Nat) (bank : List State) : Host.Outcome (List State) Fault Refusal :=
  match bank[n]? with
  | none => .next bank
  | some s =>
    match stepWith (caps n) s with
    | .next t => .next (bank.set n t)
    | .fault r => .fault r
    | .refused r => .refused r

end Sys2Proof.Machine
end

