-- ==== Sys2Proof/Machine/Ports.lean ====
section
/-! DEFINITION. What the block shows on its ports: the status outputs (spec/10_state.md R17; R89) and the two
handshakes (spec/92_eei_decisions.md D2, D4). All are functions of the state: reading one changes nothing. -/

namespace Sys2Proof.Machine

/-- `crc_o[15:0]` (R17). -/
def crcO (s : State) : BitVec 16 := s.crc

/-- `busy_o`: 1 exactly in FRAME (R11, R17). -/
def busyO (s : State) : BitVec 1 := match s.st with | .frame => 1 | .idle => 0

/-- `err_o` (R13, R17). -/
def errO (s : State) : BitVec 1 := if s.err then 1 else 0

/-- `cause_o[1:0]` (R14, R17). -/
def causeO (s : State) : BitVec 2 := s.cause

/-- The ready signal of the command input: low while `rst` = 1 or the presented command lacks room (D2);
with no word presented no command lacks room (DEDUCED, log entry 3). -/
def cmdReady (cap : Nat) (s : State) : Bool :=
  match s.cmdIn with
  | [] => !s.rst
  | w :: _ => acceptEnabled cap (decode w) s

/-- The valid signal of the output port: high exactly when `outq` is non-empty and `rst` = 0 (D4). -/
def outValid (s : State) : Bool := !s.rst && !s.outq.isEmpty

/-- `out_data[7:0]`, where it is valid: the head byte (R67). -/
def outData (s : State) : Option Byte := if s.rst then none else s.outq.head?

/-- The output stream: all the bytes the sink has taken, followed by what is left in `outq` (R67). -/
def outputStream (s : State) : List Byte := s.taken ++ s.outq

end Sys2Proof.Machine
end

