-- ==== Sys2Proof/Safety.lean ====
section
/-! DEFINITION. What a safe run of the block is, in the terms the statements use. -/

namespace Sys2Proof.Machine

/-- The five fields of R10 at their reset values (R19). -/
def State.atResetValues (s : State) : Prop :=
  s.st = .idle ∧ s.crc = 0xFFFF#16 ∧ s.err = false ∧ s.cause = 0 ∧ s.outq = []

/-- What holds of the block in every state after a reset: the queue is within its capacity (R15), `cause` is 0 exactly
when `err` is (R14), and `rst` = 1 holds the reset values (R81). -/
structure State.Inv (s : State) : Prop where
  queueFits : s.outq.length ≤ Config.outqCap
  causeMatchesErr : s.cause = 0 ↔ s.err = false
  resetHolds : s.rst = true → s.atResetValues

/-- The output stream is whole frames one after another, followed, while a frame is open, by its preamble and the
payload bytes so far, whose checksum the CRC register holds (R12, R49, R65, R69). -/
def State.WireFramed (s : State) : Prop :=
  ∃ ps : List (List Byte),
    (s.st = .idle → outputStream s = (ps.map encodeFrame).flatten) ∧
    (s.st = .frame → ∃ p : List Byte,
      outputStream s = (ps.map encodeFrame).flatten ++ preamble ++ p ∧ s.crc = crc16Modbus p)

/-- A command is on the input, the block may not accept it for want of room, and `rst` is low (R85). -/
def State.Blocked (s : State) : Prop :=
  ∃ w ws, s.cmdIn = w :: ws ∧ s.rst = false ∧ Config.outqCap - s.outq.length < need (decode w) s.st

end Sys2Proof.Machine
end

