-- ==== Sys2Proof/Certificates/Slice0/Obligations.lean ====
section
/-! DEFINITION. The statements about the model, from the numbered rules of spec/. Runs are runs of
`Sys2Proof.Machine.step`; a state's `agenda` lists whose turns come next (log entry 2), so a statement about every
state speaks of every interleaving of the producer, the block, the sink and the reset input. -/

open Sys2Proof Sys2Proof.Machine

/-! ### The four commands -/

/-- R61: NOP changes nothing, for all 256 values of its ignored field, and needs no room. -/
def Obligations.NopChangesNothing : Prop :=
  (∀ s : State, exec .nop s = .next s) ∧
  (∀ d : Byte, decode (0b00#2 ++ d) = .nop) ∧
  encode .nop = 0x000#10 ∧
  (∀ (cap : Nat) (s : State), need .nop s.st = 0 ∧ (s.rst = false → acceptEnabled cap .nop s = true))

/-- R62: START in IDLE sets `crc` to 0xFFFF, appends EE EF and opens the frame, whatever `crc`, `err` and `cause` held;
in FRAME it is SeqError(3) and changes nothing else. -/
def Obligations.StartOpensFrameOrRecordsError : Prop :=
  (∀ s : State, s.st = .idle →
    exec .start s = .next { s with st := .frame, crc := 0xFFFF#16, outq := s.outq ++ [0xEE#8, 0xEF#8] }) ∧
  (∀ s : State, s.st = .frame →
    exec .start s = .next { s with err := true, cause := if s.err then s.cause else 3#2 }) ∧
  (∀ d : Byte, decode (0b01#2 ++ d) = .start) ∧
  encode .start = 0x100#10 ∧
  need .start .idle = 2 ∧ need .start .frame = 0

/-- R63 but for its last corner clause (log entry 16), R32: DATA b in FRAME appends b itself and folds b into `crc`;
in IDLE it is SeqError(1) and changes nothing else, whatever b is. -/
def Obligations.DataEmitsAndFoldsOrRecordsError : Prop :=
  (∀ (b : Byte) (s : State), s.st = .frame →
    exec (.data b) s = .next { s with crc := crcUpd s.crc b, outq := s.outq ++ [b] }) ∧
  (∀ (b : Byte) (s : State), s.st = .idle →
    exec (.data b) s = .next { s with err := true, cause := if s.err then s.cause else 1#2 }) ∧
  (∀ b : Byte, decode (0b10#2 ++ b) = .data b ∧ encode (.data b) = 0x200#10 ||| b.setWidth 10) ∧
  (∀ b : Byte, need (.data b) .frame = 1 ∧ need (.data b) .idle = 0)

/-- R64: END in FRAME appends the checksum, most significant byte first, then 0D 0A, closes the frame and keeps `crc`,
which then no command but START changes; in IDLE it is SeqError(2). Once the queue has drained END can be accepted. -/
def Obligations.EndClosesFrameOrRecordsError : Prop :=
  (∀ s : State, s.st = .frame →
    exec .endFrame s = .next { s with
      st := .idle
      outq := s.outq ++ [s.crc.extractLsb' 8 8, s.crc.extractLsb' 0 8, 0x0D#8, 0x0A#8] }) ∧
  (∀ s : State, s.st = .idle →
    exec .endFrame s = .next { s with err := true, cause := if s.err then s.cause else 2#2 }) ∧
  (∀ (i : Instr) (s t : State), s.st = .idle → i ≠ .start → exec i s = .next t → t.crc = s.crc ∧ t.st = .idle) ∧
  (∀ d : Byte, decode (0b11#2 ++ d) = .endFrame) ∧
  encode .endFrame = 0x300#10 ∧
  need .endFrame .frame = 4 ∧ need .endFrame .idle = 0 ∧
  (∀ s : State, s.rst = false → s.outq = [] → acceptEnabled Config.outqCap .endFrame s = true)

/-- R23, R24: a command appends, in one step and behind what is queued, exactly as many bytes as R60's `need` says,
and touches neither the bytes taken, nor the input ports, nor the agenda. -/
def Obligations.CommandAppendsExactlyItsNeed : Prop :=
  ∀ (i : Instr) (s : State), ∃ t bs, exec i s = .next t ∧ t.outq = s.outq ++ bs ∧ bs.length = need i s.st ∧
    t.taken = s.taken ∧ t.cmdIn = s.cmdIn ∧ t.rst = s.rst ∧ t.agenda = s.agenda

/-! ### Sequencing errors -/

/-- R70: each error is raised by exactly one command in exactly one state, with its code, and records neither the byte
nor anything else. -/
def Obligations.SequencingErrorsAreTheThreeOfTheTable : Prop :=
  (∀ (i : Instr) (s t : State), s.err = false → s.cause = 0 → exec i s = .next t →
    ((∃ b, i = .data b) ∧ s.st = .idle ∧ t = { s with err := true, cause := 1#2 }) ∨
    (i = .endFrame ∧ s.st = .idle ∧ t = { s with err := true, cause := 2#2 }) ∨
    (i = .start ∧ s.st = .frame ∧ t = { s with err := true, cause := 3#2 }) ∨
    (legalIn i s.st = true ∧ t.err = false ∧ t.cause = 0)) ∧
  (∀ s : State, s.st = .idle → s.err = false →
    (∀ b : Byte, exec (.data b) s = .next { s with err := true, cause := 1#2 }) ∧
    exec .endFrame s = .next { s with err := true, cause := 2#2 }) ∧
  (∀ s : State, s.st = .frame → s.err = false → exec .start s = .next { s with err := true, cause := 3#2 })

/-- R71: an erroring command is consumed and discarded; it writes `err` and, when `err` was 0, `cause`; later commands run
by the normal rules, and no state stops the block. -/
def Obligations.ErroringCommandOnlyRecords : Prop :=
  (∀ (i : Instr) (s : State), legalIn i s.st = false →
    exec i s = .next { s with
      err := true
      cause := if s.err then s.cause else
        match i with
        | .data _ => 1#2
        | .endFrame => 2#2
        | .start => 3#2
        | .nop => 0#2 }) ∧
  (∀ (i : Instr) (s : State) (c : BitVec 2), ∃ t u,
    exec i s = .next t ∧ exec i { s with err := true, cause := c } = .next u ∧
    u.st = t.st ∧ u.crc = t.crc ∧ u.outq = t.outq ∧ u.err = true ∧ u.cause = c) ∧
  (∀ s : State, ∃ t, step s = .next t)

/-- R75: an error while `err` = 1 changes nothing at all. -/
def Obligations.LaterErrorChangesNothing : Prop :=
  ∀ (i : Instr) (s : State), legalIn i s.st = false → s.err = true → exec i s = .next s

/-- R13: `err` and `cause` change no other rule. Two states that differ only in them run every command alike. -/
def Obligations.ErrorFlagChangesNoOtherRule : Prop :=
  ∀ (is : List Instr) (s : State) (e : Bool) (c : BitVec 2), ∃ t u,
    execAll is s = .next t ∧ execAll is { s with err := e, cause := c } = .next u ∧
    u.st = t.st ∧ u.crc = t.crc ∧ u.outq = t.outq ∧
    ∀ (cap : Nat) (i : Instr), acceptEnabled cap i u = acceptEnabled cap i t

/-- R13, R74: over any run in which no reset is asserted, `err` once set stays set and `cause` keeps the first code. -/
def Obligations.ErrorStaysUntilReset : Prop :=
  ∀ (k : Nat) (s t : State), s.rst = false → (∀ u ∈ s.agenda.take k, u.assertsReset = false) →
    runSteps k s = .next t → s.err = true → t.err = true ∧ t.cause = s.cause

/-! ### Acceptance, the sink, the producer -/

/-- R60, and how a step runs a command: with `rst` low, on the block's turn, the word at the head of the command input
is decoded; if the queue has room for what the command appends, the step is `exec` of the decoded command with the word
consumed, and otherwise the word waits and nothing of the block changes. -/
def Obligations.StepRunsTheDecodedCommand : Prop :=
  ∀ (s : State) (w : CmdWord) (ws : List CmdWord) (i : Instr),
    currentTurn s = .block → s.rst = false → s.cmdIn = w :: ws → decode w = i →
    (need i s.st ≤ Config.outqCap - s.outq.length →
      cmdReady Config.outqCap s = true ∧
      step s = exec i { s with cmdIn := ws, agenda := s.agenda.tail }) ∧
    (Config.outqCap - s.outq.length < need i s.st →
      cmdReady Config.outqCap s = false ∧
      step s = .next { s with agenda := s.agenda.tail })

/-- R60: an erroring command and a NOP need no room, so they are accepted whatever the queue holds. -/
def Obligations.ErrorsAndNopNeedNoRoom : Prop :=
  ∀ (cap : Nat) (i : Instr) (s : State), s.rst = false →
    (legalIn i s.st = false ∨ i = .nop) → need i s.st = 0 ∧ acceptEnabled cap i s = true

/-- R67, D4: on its turn, with `rst` low, the sink takes the head byte when there is one, which the output port showed
as valid; no field of the block but `outq` changes, no status output changes, and the output stream stays the same. -/
def Obligations.SinkTakesTheHeadByte : Prop :=
  ∀ s : State, currentTurn s = .sink → s.rst = false →
    (∀ b q, s.outq = b :: q →
      outValid s = true ∧ outData s = some b ∧
      step s = .next { s with outq := q, taken := s.taken ++ [b], agenda := s.agenda.tail }) ∧
    (s.outq = [] → outValid s = false ∧ step s = .next { s with agenda := s.agenda.tail }) ∧
    (∀ t, step s = .next t → outputStream t = outputStream s ∧
      crcO t = crcO s ∧ busyO t = busyO s ∧ errO t = errO s ∧ causeO t = causeO s)

/-- The model's producer (log entry 3): its turn puts one more word behind those waiting and touches nothing of the block. -/
def Obligations.ProducerTurnOnlyQueuesItsWord : Prop :=
  ∀ (s : State) (w : CmdWord), currentTurn s = .present w → s.rst = false →
    step s = .next { s with cmdIn := s.cmdIn ++ [w], agenda := s.agenda.tail }

/-- R72: where both a command and a sink take are enabled, either order of the two gives the same state. -/
def Obligations.CommandAndSinkTakeCommute : Prop :=
  ∀ (s : State) (w : CmdWord) (ws : List CmdWord) (b : Byte) (q : List Byte) (ts : List Turn),
    s.cmdIn = w :: ws → s.outq = b :: q → acceptEnabled Config.outqCap (decode w) s = true →
    ∃ t, runSteps 2 { s with agenda := .block :: .sink :: ts } = .next t ∧
      runSteps 2 { s with agenda := .sink :: .block :: ts } = .next t ∧
      t.cmdIn = ws ∧ t.taken = s.taken ++ [b]

/-- R85: while the sink takes nothing and no reset comes, a command that lacks room waits for ever, and nothing of the
block changes. -/
def Obligations.StuckWhileTheSinkTakesNothing : Prop :=
  ∀ (k : Nat) (s t : State), s.Blocked →
    (∀ u ∈ s.agenda.take k, u ≠ .sink ∧ u.assertsReset = false) →
    runSteps k s = .next t →
    t.Blocked ∧
      t = { s with cmdIn := s.cmdIn ++ (s.agenda.take k).flatMap Turn.presents, agenda := s.agenda.drop k }

/-- R60, R64, D5: once the sink has emptied the queue, the waiting command is accepted, whatever it is. -/
def Obligations.DrainedQueueAcceptsTheWaitingCommand : Prop :=
  ∀ (s : State) (w : CmdWord) (ws : List CmdWord) (ts : List Turn),
    s.rst = false → s.cmdIn = w :: ws → s.agenda = List.replicate s.outq.length .sink ++ .block :: ts →
    runSteps (s.outq.length + 1) s =
      exec (decode w) { s with outq := [], taken := s.taken ++ s.outq, cmdIn := ws, agenda := ts }

/-! ### Reset -/

/-- R19: the values right after reset. -/
def Obligations.ResetValues : Prop :=
  State.reset.st = .idle ∧ State.reset.crc = 0xFFFF#16 ∧ State.reset.err = false ∧ State.reset.cause = 0 ∧
    State.reset.outq = []

/-- R80: asserting `rst` sets every field of the block to its reset value, from any state at all; nothing but reset
clears `err` and `cause`, and nothing but reset abandons an open frame. -/
def Obligations.OnlyResetClearsAndAbandons : Prop :=
  (∀ s : State, currentTurn s = .reset true →
    step s = .next { s with st := .idle, crc := 0xFFFF#16, err := false, cause := 0, outq := [],
                            rst := true, agenda := s.agenda.tail }) ∧
  (∀ s t : State, s.rst = false → currentTurn s ≠ .reset true → step s = .next t → s.err = true →
    t.err = true ∧ t.cause = s.cause) ∧
  (∀ s t : State, s.rst = false → currentTurn s ≠ .reset true → step s = .next t → s.st = .frame → t.st = .idle →
    ∃ w ws, currentTurn s = .block ∧ s.cmdIn = w :: ws ∧ decode w = .endFrame ∧
      acceptEnabled Config.outqCap .endFrame s = true)

/-- R81, from any state with `rst` high. In a state whose fields are not at their reset values already, which no run from
reset reaches, that a step with `rst` high puts them there is the model's choice, not R81's words (DEDUCED, log entry 4).
While `rst` is high no command is accepted, no byte is taken, ready is low and the state stays at the reset
values; a command presented meanwhile is accepted after `rst` returns to 0, against the reset state. -/
def Obligations.HighResetHoldsTheBlock : Prop :=
  (∀ (k : Nat) (s t : State), s.rst = true → (∀ u ∈ s.agenda.take (k + 1), u.releasesReset = false) →
    runSteps (k + 1) s = .next t →
    t.atResetValues ∧ t.rst = true ∧ t.taken = s.taken ∧
      t.cmdIn = s.cmdIn ++ (s.agenda.take (k + 1)).flatMap Turn.presents ∧
      cmdReady Config.outqCap t = false ∧ outValid t = false) ∧
  (∀ (s : State) (w : CmdWord) (ws : List CmdWord) (ts : List Turn),
    s.rst = true → s.cmdIn = w :: ws → s.agenda = .reset false :: .block :: ts →
    runSteps 2 s = exec (decode w)
      { s with st := .idle, crc := 0xFFFF#16, err := false, cause := 0, outq := [],
               rst := false, cmdIn := ws, agenda := ts })

/-- R84: a reset leaves on the wire exactly what the sink has taken; it truncates nothing only if every byte had been
taken. -/
def Obligations.ResetTruncatesTheOutputStream : Prop :=
  ∀ s t : State, currentTurn s = .reset true → step s = .next t →
    outputStream t = s.taken ∧ (outputStream t = outputStream s ↔ s.outq = [])

/-! ### Which commands write which field -/

/-- R11: only START (IDLE to FRAME), END (FRAME to IDLE) and reset (to IDLE) write `st`. -/
def Obligations.OnlyStartEndAndResetWriteSt : Prop :=
  ∀ s t : State, s.rst = false → step s = .next t → t.st ≠ s.st →
    (currentTurn s = .reset true ∧ t.st = .idle) ∨
    (∃ w ws, currentTurn s = .block ∧ s.cmdIn = w :: ws ∧ t.cmdIn = ws ∧
      ((decode w = .start ∧ s.st = .idle ∧ t.st = .frame) ∨
       (decode w = .endFrame ∧ s.st = .frame ∧ t.st = .idle)))

/-- R12: only START, DATA in an open frame and reset write `crc`. -/
def Obligations.OnlyStartDataAndResetWriteCrc : Prop :=
  ∀ s t : State, s.rst = false → step s = .next t → t.crc ≠ s.crc →
    (currentTurn s = .reset true ∧ t.crc = 0xFFFF#16) ∨
    (∃ w ws, currentTurn s = .block ∧ s.cmdIn = w :: ws ∧ t.cmdIn = ws ∧
      ((decode w = .start ∧ s.st = .idle ∧ t.crc = 0xFFFF#16) ∨
       (∃ b, decode w = .data b ∧ s.st = .frame ∧ t.crc = crcUpd s.crc b)))

/-- R14: `cause` is written only when `err` goes from 0 to 1, and reset clears it. -/
def Obligations.CauseWrittenOnlyWithTheFirstError : Prop :=
  ∀ s t : State, s.rst = false → step s = .next t → t.cause ≠ s.cause →
    (currentTurn s = .reset true ∧ t.cause = 0) ∨
    (currentTurn s = .block ∧ s.err = false ∧ t.err = true ∧ t.cause ≠ 0)

/-! ### Invariants -/

/-- R15, R14, R81: every step keeps the queue within its capacity, `cause` 0 exactly when `err` is, and the reset
values while `rst` is high. -/
def Obligations.StepKeepsInv : Prop :=
  ∀ s t : State, s.Inv → step s = .next t → t.Inv

/-- The invariant holds at reset. -/
def Obligations.ResetMeetsInv : Prop := State.reset.Inv

/-- R12, R49, R65, R69: with `rst` low and no reset asserted, every step, whatever words the producer sends and however
the sink is scheduled, keeps the output stream a sequence of whole frames and at most one open frame whose checksum so
far is in `crc`. -/
def Obligations.StepKeepsWireFramed : Prop :=
  ∀ s t : State, s.rst = false → currentTurn s ≠ .reset true → s.WireFramed → step s = .next t → t.WireFramed

/-- The wire is framed at reset, when nothing has been sent. -/
def Obligations.ResetIsWireFramed : Prop := State.reset.WireFramed

/-! ### Laws of command sequences -/

/-- R65: from IDLE, `FRAME p` with any NOPs inserted appends exactly `encode(p)`, ends in IDLE with the checksum of p in
`crc`, and changes nothing else. -/
def Obligations.StreamingLaw : Prop :=
  ∀ (p : List Byte) (is : List Instr) (s : State), s.st = .idle →
    is.filter (fun i => i ≠ .nop) = frameCommands p →
    execAll is s = .next { s with st := .idle, crc := crc16Modbus p, outq := s.outq ++ encodeFrame p }

/-- R23, R24, R67: any run without reset does exactly what accepting a prefix of the offered commands one after
another does to the block and to the output stream; the rest of the commands still waits. -/
def Obligations.RunRefinesCommandOrder : Prop :=
  ∀ (k : Nat) (s t : State), s.rst = false → (∀ u ∈ s.agenda.take k, u.assertsReset = false) →
    runSteps k s = .next t →
    ∃ (done : List CmdWord) (u : State),
      s.cmdIn ++ (s.agenda.take k).flatMap Turn.presents = done ++ t.cmdIn ∧
      execAll (done.map decode) s = .next u ∧
      t.st = u.st ∧ t.crc = u.crc ∧ t.err = u.err ∧ t.cause = u.cause ∧ outputStream t = outputStream u ∧
      t.rst = false

/-- R65, R67: the same law on the machine: whatever the schedule of block and sink, once the words of `FRAME p` (with any
NOPs) have been accepted, the output stream has grown by exactly `encode(p)`. -/
def Obligations.StreamingLawUnderEverySchedule : Prop :=
  ∀ (p : List Byte) (k : Nat) (s t : State), s.rst = false → s.st = .idle →
    (∀ u ∈ s.agenda.take k, u.assertsReset = false ∧ u.presents = []) →
    (s.cmdIn.map decode).filter (fun i => i ≠ .nop) = frameCommands p →
    runSteps k s = .next t → t.cmdIn = [] →
    outputStream t = outputStream s ++ encodeFrame p ∧ t.st = .idle ∧ t.crc = crc16Modbus p ∧
      t.err = s.err ∧ t.cause = s.cause

/-- R66: after a START and until the next END or reset, `crc_o` is the checksum of the bytes DATA has brought since; after
the END and until the next START, it is the checksum of that frame's payload; after reset and before the first START it
is 0xFFFF. -/
def Obligations.RunningChecksum : Prop :=
  (∀ (is : List Instr) (s : State), s.st = .idle → .endFrame ∉ is →
    ∃ t, execAll (.start :: is) s = .next t ∧ t.st = .frame ∧ crcO t = crc16Modbus (payloadOf is)) ∧
  (∀ (is js : List Instr) (s : State), s.st = .idle → .endFrame ∉ is → .start ∉ js →
    ∃ t, execAll (.start :: is ++ .endFrame :: js) s = .next t ∧ t.st = .idle ∧
      crcO t = crc16Modbus (payloadOf is)) ∧
  (∀ is : List Instr, .start ∉ is → ∃ t, execAll is State.reset = .next t ∧ crcO t = 0xFFFF#16)

/-- R68: inserting or deleting NOPs anywhere changes nothing of the outcome. -/
def Obligations.NopTransparency : Prop :=
  ∀ (is : List Instr) (s : State), execAll is s = execAll (is.filter (fun i => i ≠ .nop)) s

/-- R69: deleting every erroring command leaves the output stream, `st` and `crc` as they were; only `err` and `cause`
record that an erroring command was presented. -/
def Obligations.ErrorTransparency : Prop :=
  ∀ (is : List Instr) (s : State), ∃ t u,
    execAll is s = .next t ∧ execAll (dropErrors s.st is) s = .next u ∧
    outputStream u = outputStream t ∧ u.st = t.st ∧ u.crc = t.crc ∧
    u.err = s.err ∧ u.cause = s.cause ∧
    (t.err = true ↔ s.err = true ∨ dropErrors s.st is ≠ is)

/-- R86: a second producer's frame begun inside the first one's joins it: one frame whose payload is both payloads, and
SeqError(3) recorded. -/
def Obligations.InterleavedFramesJoin : Prop :=
  ∀ (p q : List Byte) (s : State), s.st = .idle →
    execAll (.start :: p.map .data ++ .start :: q.map .data ++ [.endFrame]) s =
      .next { s with st := .idle, crc := crc16Modbus (p ++ q), outq := s.outq ++ encodeFrame (p ++ q),
                     err := true, cause := if s.err then s.cause else 3#2 }

/-! ### The CRC and the frame -/

/-- R43, R45: the shift-right form the commands use computes the reference CRC-16/MODBUS of every byte sequence. -/
def Obligations.ShiftRightFormEqualsReferenceModel : Prop :=
  ∀ p : List Byte, crc16Modbus p = crcModel p

/-- R44: the reflected polynomial is the reversed normal one, with bits 15, 13 and 0 set and no other. -/
def Obligations.ReflectedPolynomial : Prop :=
  polyR = revBits 0x8005#16 ∧ polyR = 0xA001#16 ∧
    ∀ i : Fin 16, polyR.getLsbD i = (i.val == 15 || i.val == 13 || i.val == 0)

/-- R47: the prefix law. -/
def Obligations.ChecksumPrefixLaw : Prop :=
  ∀ (p : List Byte) (b : Byte), crc16Modbus (p ++ [b]) = crcUpd (crc16Modbus p) b

/-- R55: the table the spec prints is `T`, and the table-driven update is the normative one. -/
def Obligations.TableFormEqualsByteUpdate : Prop :=
  (∀ i : Byte, crcTableAt i = crcUpd 0x0000#16 i) ∧
  (∀ (c : Crc) (b : Byte), crcUpd c b = (c >>> 8) ^^^ crcTableAt (((c ^^^ b.setWidth 16) &&& 0xFF#16).setWidth 8))

/-- R48: the checksum's two bytes, the most significant first. -/
def Obligations.ChecksumBytesBigEndian : Prop :=
  (∀ c : Crc, be16 c = [c.extractLsb' 8 8, c.extractLsb' 0 8] ∧ c.extractLsb' 8 8 ++ c.extractLsb' 0 8 = c) ∧
    be16 0x40BF#16 = [0x40#8, 0xBF#8]

/-- R50, R51: the length of a frame and what stands at each of its positions. -/
def Obligations.FramePositions : Prop :=
  ∀ p : List Byte,
    (encodeFrame p).length = p.length + 6 ∧
    (encodeFrame p).take 2 = [0xEE#8, 0xEF#8] ∧
    ((encodeFrame p).drop 2).take p.length = p ∧
    ((encodeFrame p).drop (p.length + 2)).take 2 = be16 (crc16Modbus p) ∧
    (encodeFrame p).drop (p.length + 4) = [0x0D#8, 0x0A#8]

/-- R49, R51: distinct payloads have distinct frames. -/
def Obligations.FrameDeterminesPayload : Prop :=
  ∀ p q : List Byte, encodeFrame p = encodeFrame q → p = q

/-- R56: with the checksum's low byte first the checksum of data and checksum is 0 for every payload; as the block sends
it, it is not, by R56's examples. -/
def Obligations.ResidueOnlyForLowByteFirst : Prop :=
  (∀ p : List Byte, crc16Modbus (p ++ (be16 (crc16Modbus p)).reverse) = 0) ∧
    crc16Modbus ([0x00#8] ++ be16 (crc16Modbus [0x00#8])) = 0xB001#16 ∧
    crc16Modbus ([0x01#8, 0x02#8] ++ be16 (crc16Modbus [0x01#8, 0x02#8])) = 0x2828#16

/-- R9 (the checksum's purpose), R45, R46: changing one byte of a payload always changes the checksum. -/
def Obligations.OneChangedByteChangesTheChecksum : Prop :=
  ∀ (p q : List Byte) (b c : Byte), b ≠ c → crc16Modbus (p ++ b :: q) ≠ crc16Modbus (p ++ c :: q)

/-- R45: a byte 0x00 leaves exactly two register values unchanged. R57 and the last corner clause of R63 say of every
register value that it changes; that is not so (log entry 16). -/
def Obligations.ZeroByteKeepsExactlyTwoRegisterValues : Prop :=
  ∀ c : Crc, crcUpd c 0x00#8 = c ↔ c = 0x0000#16 ∨ c = 0xC001#16

/-! ### Encodings, listings, ports, instances -/

/-- R31, R33, R34: every word decodes, by its two top bits alone; the canonical words are those of the table. -/
def Obligations.DecodeFollowsTheOpcodeMap : Prop :=
  (∀ d : Byte, decode (0b00#2 ++ d) = .nop ∧ decode (0b01#2 ++ d) = .start ∧
    decode (0b10#2 ++ d) = .data d ∧ decode (0b11#2 ++ d) = .endFrame) ∧
  (∀ w : CmdWord, ∃ (op : BitVec 2) (d : Byte), w = op ++ d) ∧
  encode .nop = 0x000#10 ∧ encode .start = 0x100#10 ∧ encode .endFrame = 0x300#10

/-- R31 to R33: decoding the canonical word of a command gives the command back, and the word of a decoded word differs
from it at most in the ignored field. -/
def Obligations.DecodeEncodeRoundTrip : Prop :=
  (∀ i : Instr, i.wf = true → decode (encode i) = i) ∧
  (∀ w : CmdWord, encode (decode w) &&& 0x300#10 = w &&& 0x300#10 ∧
    (w &&& 0x300#10 = 0x200#10 → encode (decode w) = w))

/-- The words of spec/95_test_vectors.md section 2.1. -/
def Obligations.DecodeVectors : Prop :=
  decode 0x000#10 = .nop ∧ decode 0x0FF#10 = .nop ∧ decode 0x100#10 = .start ∧ decode 0x1A5#10 = .start ∧
    decode 0x200#10 = .data 0x00#8 ∧ decode 0x2EE#10 = .data 0xEE#8 ∧ decode 0x2FF#10 = .data 0xFF#8 ∧
    decode 0x300#10 = .endFrame ∧ decode 0x3FF#10 = .endFrame

/-- R35: assembling the disassembly of any words gives those words, each with its ignored field cleared. -/
def Obligations.AssemblingTheDisassemblyGivesCanonicalWords : Prop :=
  ∀ ws : List CmdWord, assemble (ws.map disassemble) = .ok (ws.map fun w => encode (decode w))

/-- R36: what each pseudo-instruction expands to. That FRAME takes a text too is DEDUCED from a listing of the spec
(log entry 12). -/
def Obligations.PseudoInstructionExpansions : Prop :=
  (∀ p : List Byte, expand (.frame (p.map BitVec.toNat)) = .start :: p.map .data ++ [.endFrame]) ∧
  expand (.frame []) = [.start, .endFrame] ∧
  (∀ p : List Byte, expand (.bytes (p.map BitVec.toNat)) = p.map .data) ∧
  (∀ cs : List Char, (Line.ascii cs).wf = true →
    expand (.ascii cs) = cs.map (fun c => .data (BitVec.ofNat 8 c.toNat)) ∧
    expand (.frameText cs) = .start :: expand (.ascii cs) ++ [.endFrame])

/-- R17: the status outputs are functions of the state, with their reset values. -/
def Obligations.StatusOutputs : Prop :=
  (∀ s : State, crcO s = s.crc ∧ (busyO s = 1 ↔ s.st = .frame) ∧ (busyO s = 0 ↔ s.st = .idle) ∧
    (errO s = 1 ↔ s.err = true) ∧ (errO s = 0 ↔ s.err = false) ∧ causeO s = s.cause) ∧
  (∀ s : State, s.Inv → (causeO s = 0 ↔ errO s = 0)) ∧
  crcO State.reset = 0xFFFF#16 ∧ busyO State.reset = 0 ∧ errO State.reset = 0 ∧ causeO State.reset = 0

/-- R78: a step of one instance changes no other, whatever the capacities of the instances (log entry 13). -/
def Obligations.InstancesShareNothing : Prop :=
  ∀ (caps : Nat → Nat) (n : Nat) (bank : List State) (s : State), bank[n]? = some s →
    ∃ t bank', stepWith (caps n) s = .next t ∧ stepInstance caps n bank = .next bank' ∧ bank'[n]? = some t ∧
      ∀ m, m ≠ n → bank'[m]? = bank[m]?
end

