-- ==== Sys2Proof/Laws/Crc.lean ====
section
/-! SUPPORT. Small laws of the CRC computation: its rounds are linear, and the checksum's bytes are its halves. -/

namespace Sys2Proof.Machine

@[simp] theorem iterTimes_zero {α : Type} (f : α → α) (x : α) : iterTimes f 0 x = x := rfl

@[simp] theorem iterTimes_succ {α : Type} (f : α → α) (n : Nat) (x : α) :
    iterTimes f (n + 1) x = iterTimes f n (f x) := rfl

/-- One round as a shift and a conditional XOR. -/
theorem crcBit_eq (c : Crc) : crcBit c = c >>> 1 ^^^ (if c.getLsbD 0 then polyR else 0#16) := by
  unfold crcBit; split <;> simp

/-- One round is linear over XOR. -/
theorem crcBit_xor (a b : Crc) : crcBit (a ^^^ b) = crcBit a ^^^ crcBit b := by
  have hs : (a ^^^ b) >>> 1 = a >>> 1 ^^^ b >>> 1 := by ext i; simp
  have hp : (if (a ^^^ b).getLsbD 0 then polyR else 0#16) =
      (if a.getLsbD 0 then polyR else 0#16) ^^^ (if b.getLsbD 0 then polyR else 0#16) := by
    rw [BitVec.getLsbD_xor]
    cases a.getLsbD 0 <;> cases b.getLsbD 0 <;> decide
  rw [crcBit_eq, crcBit_eq, crcBit_eq, hs, hp]
  ac_rfl

/-- Any number of rounds is linear over XOR. -/
theorem iterTimes_crcBit_xor (n : Nat) (a b : Crc) :
    iterTimes crcBit n (a ^^^ b) = iterTimes crcBit n a ^^^ iterTimes crcBit n b := by
  induction n generalizing a b with
  | zero => rfl
  | succ n ih => simp [crcBit_xor, ih]

/-- The checksum of no bytes is the init value (R46). -/
@[simp] theorem crc16Modbus_nil : crc16Modbus [] = 0xFFFF#16 := rfl

@[simp] theorem be16_length (c : Crc) : (be16 c).length = 2 := rfl

@[simp] theorem preamble_length : preamble.length = 2 := rfl

@[simp] theorem postamble_length : postamble.length = 2 := rfl

end Sys2Proof.Machine
end

