-- ==== Sys2Proof/Laws/State.lean ====
section
/-! SUPPORT. What each update of the state does to each field: one lemma per field per update, all by `rfl`. -/

namespace Sys2Proof.Machine

@[simp] theorem setSt_st (v : SeqState) (s : State) : (setSt v s).st = v := rfl
@[simp] theorem setSt_crc (v : SeqState) (s : State) : (setSt v s).crc = s.crc := rfl
@[simp] theorem setSt_err (v : SeqState) (s : State) : (setSt v s).err = s.err := rfl
@[simp] theorem setSt_cause (v : SeqState) (s : State) : (setSt v s).cause = s.cause := rfl
@[simp] theorem setSt_outq (v : SeqState) (s : State) : (setSt v s).outq = s.outq := rfl
@[simp] theorem setSt_rst (v : SeqState) (s : State) : (setSt v s).rst = s.rst := rfl
@[simp] theorem setSt_cmdIn (v : SeqState) (s : State) : (setSt v s).cmdIn = s.cmdIn := rfl
@[simp] theorem setSt_taken (v : SeqState) (s : State) : (setSt v s).taken = s.taken := rfl
@[simp] theorem setSt_agenda (v : SeqState) (s : State) : (setSt v s).agenda = s.agenda := rfl

@[simp] theorem setCrc_st (c : Crc) (s : State) : (setCrc c s).st = s.st := rfl
@[simp] theorem setCrc_crc (c : Crc) (s : State) : (setCrc c s).crc = c := rfl
@[simp] theorem setCrc_err (c : Crc) (s : State) : (setCrc c s).err = s.err := rfl
@[simp] theorem setCrc_cause (c : Crc) (s : State) : (setCrc c s).cause = s.cause := rfl
@[simp] theorem setCrc_outq (c : Crc) (s : State) : (setCrc c s).outq = s.outq := rfl
@[simp] theorem setCrc_rst (c : Crc) (s : State) : (setCrc c s).rst = s.rst := rfl
@[simp] theorem setCrc_cmdIn (c : Crc) (s : State) : (setCrc c s).cmdIn = s.cmdIn := rfl
@[simp] theorem setCrc_taken (c : Crc) (s : State) : (setCrc c s).taken = s.taken := rfl
@[simp] theorem setCrc_agenda (c : Crc) (s : State) : (setCrc c s).agenda = s.agenda := rfl

@[simp] theorem emit_st (bs : List Byte) (s : State) : (emit bs s).st = s.st := rfl
@[simp] theorem emit_crc (bs : List Byte) (s : State) : (emit bs s).crc = s.crc := rfl
@[simp] theorem emit_err (bs : List Byte) (s : State) : (emit bs s).err = s.err := rfl
@[simp] theorem emit_cause (bs : List Byte) (s : State) : (emit bs s).cause = s.cause := rfl
@[simp] theorem emit_outq (bs : List Byte) (s : State) : (emit bs s).outq = s.outq ++ bs := rfl
@[simp] theorem emit_rst (bs : List Byte) (s : State) : (emit bs s).rst = s.rst := rfl
@[simp] theorem emit_cmdIn (bs : List Byte) (s : State) : (emit bs s).cmdIn = s.cmdIn := rfl
@[simp] theorem emit_taken (bs : List Byte) (s : State) : (emit bs s).taken = s.taken := rfl
@[simp] theorem emit_agenda (bs : List Byte) (s : State) : (emit bs s).agenda = s.agenda := rfl

@[simp] theorem raiseSeqError_st (e : SeqError) (s : State) : (raiseSeqError e s).st = s.st := rfl
@[simp] theorem raiseSeqError_crc (e : SeqError) (s : State) : (raiseSeqError e s).crc = s.crc := rfl
@[simp] theorem raiseSeqError_err (e : SeqError) (s : State) : (raiseSeqError e s).err = true := rfl
@[simp] theorem raiseSeqError_cause (e : SeqError) (s : State) : (raiseSeqError e s).cause = causeAfter s.err s.cause e := rfl
@[simp] theorem raiseSeqError_outq (e : SeqError) (s : State) : (raiseSeqError e s).outq = s.outq := rfl
@[simp] theorem raiseSeqError_rst (e : SeqError) (s : State) : (raiseSeqError e s).rst = s.rst := rfl
@[simp] theorem raiseSeqError_cmdIn (e : SeqError) (s : State) : (raiseSeqError e s).cmdIn = s.cmdIn := rfl
@[simp] theorem raiseSeqError_taken (e : SeqError) (s : State) : (raiseSeqError e s).taken = s.taken := rfl
@[simp] theorem raiseSeqError_agenda (e : SeqError) (s : State) : (raiseSeqError e s).agenda = s.agenda := rfl

@[simp] theorem resetBlock_st (s : State) : (resetBlock s).st = .idle := rfl
@[simp] theorem resetBlock_crc (s : State) : (resetBlock s).crc = 0xFFFF#16 := rfl
@[simp] theorem resetBlock_err (s : State) : (resetBlock s).err = false := rfl
@[simp] theorem resetBlock_cause (s : State) : (resetBlock s).cause = 0 := rfl
@[simp] theorem resetBlock_outq (s : State) : (resetBlock s).outq = [] := rfl
@[simp] theorem resetBlock_rst (s : State) : (resetBlock s).rst = s.rst := rfl
@[simp] theorem resetBlock_cmdIn (s : State) : (resetBlock s).cmdIn = s.cmdIn := rfl
@[simp] theorem resetBlock_taken (s : State) : (resetBlock s).taken = s.taken := rfl
@[simp] theorem resetBlock_agenda (s : State) : (resetBlock s).agenda = s.agenda := rfl

@[simp] theorem deliver_st (b : Byte) (q : List Byte) (s : State) : (deliver b q s).st = s.st := rfl
@[simp] theorem deliver_crc (b : Byte) (q : List Byte) (s : State) : (deliver b q s).crc = s.crc := rfl
@[simp] theorem deliver_err (b : Byte) (q : List Byte) (s : State) : (deliver b q s).err = s.err := rfl
@[simp] theorem deliver_cause (b : Byte) (q : List Byte) (s : State) : (deliver b q s).cause = s.cause := rfl
@[simp] theorem deliver_outq (b : Byte) (q : List Byte) (s : State) : (deliver b q s).outq = q := rfl
@[simp] theorem deliver_rst (b : Byte) (q : List Byte) (s : State) : (deliver b q s).rst = s.rst := rfl
@[simp] theorem deliver_cmdIn (b : Byte) (q : List Byte) (s : State) : (deliver b q s).cmdIn = s.cmdIn := rfl
@[simp] theorem deliver_taken (b : Byte) (q : List Byte) (s : State) : (deliver b q s).taken = s.taken ++ [b] := rfl
@[simp] theorem deliver_agenda (b : Byte) (q : List Byte) (s : State) : (deliver b q s).agenda = s.agenda := rfl

@[simp] theorem present_st (w : CmdWord) (s : State) : (present w s).st = s.st := rfl
@[simp] theorem present_crc (w : CmdWord) (s : State) : (present w s).crc = s.crc := rfl
@[simp] theorem present_err (w : CmdWord) (s : State) : (present w s).err = s.err := rfl
@[simp] theorem present_cause (w : CmdWord) (s : State) : (present w s).cause = s.cause := rfl
@[simp] theorem present_outq (w : CmdWord) (s : State) : (present w s).outq = s.outq := rfl
@[simp] theorem present_rst (w : CmdWord) (s : State) : (present w s).rst = s.rst := rfl
@[simp] theorem present_cmdIn (w : CmdWord) (s : State) : (present w s).cmdIn = s.cmdIn ++ [w] := rfl
@[simp] theorem present_taken (w : CmdWord) (s : State) : (present w s).taken = s.taken := rfl
@[simp] theorem present_agenda (w : CmdWord) (s : State) : (present w s).agenda = s.agenda := rfl

@[simp] theorem consume_st (ws : List CmdWord) (s : State) : (consume ws s).st = s.st := rfl
@[simp] theorem consume_crc (ws : List CmdWord) (s : State) : (consume ws s).crc = s.crc := rfl
@[simp] theorem consume_err (ws : List CmdWord) (s : State) : (consume ws s).err = s.err := rfl
@[simp] theorem consume_cause (ws : List CmdWord) (s : State) : (consume ws s).cause = s.cause := rfl
@[simp] theorem consume_outq (ws : List CmdWord) (s : State) : (consume ws s).outq = s.outq := rfl
@[simp] theorem consume_rst (ws : List CmdWord) (s : State) : (consume ws s).rst = s.rst := rfl
@[simp] theorem consume_cmdIn (ws : List CmdWord) (s : State) : (consume ws s).cmdIn = ws := rfl
@[simp] theorem consume_taken (ws : List CmdWord) (s : State) : (consume ws s).taken = s.taken := rfl
@[simp] theorem consume_agenda (ws : List CmdWord) (s : State) : (consume ws s).agenda = s.agenda := rfl

@[simp] theorem endTurn_st (s : State) : (endTurn s).st = s.st := rfl
@[simp] theorem endTurn_crc (s : State) : (endTurn s).crc = s.crc := rfl
@[simp] theorem endTurn_err (s : State) : (endTurn s).err = s.err := rfl
@[simp] theorem endTurn_cause (s : State) : (endTurn s).cause = s.cause := rfl
@[simp] theorem endTurn_outq (s : State) : (endTurn s).outq = s.outq := rfl
@[simp] theorem endTurn_rst (s : State) : (endTurn s).rst = s.rst := rfl
@[simp] theorem endTurn_cmdIn (s : State) : (endTurn s).cmdIn = s.cmdIn := rfl
@[simp] theorem endTurn_taken (s : State) : (endTurn s).taken = s.taken := rfl
@[simp] theorem endTurn_agenda (s : State) : (endTurn s).agenda = s.agenda.tail := rfl

@[simp] theorem reset_st : State.reset.st = .idle := rfl
@[simp] theorem reset_crc : State.reset.crc = 0xFFFF#16 := rfl
@[simp] theorem reset_err : State.reset.err = false := rfl
@[simp] theorem reset_cause : State.reset.cause = 0 := rfl
@[simp] theorem reset_outq : State.reset.outq = [] := rfl
@[simp] theorem reset_rst : State.reset.rst = false := rfl
@[simp] theorem reset_cmdIn : State.reset.cmdIn = [] := rfl
@[simp] theorem reset_taken : State.reset.taken = [] := rfl
@[simp] theorem reset_agenda : State.reset.agenda = [] := rfl

/-- Driving `rst` high resets the block (R80). -/
@[simp] theorem driveRst_high (s : State) : driveRst true s = resetBlock { s with rst := true } := rfl

/-- Driving `rst` low changes nothing else. -/
@[simp] theorem driveRst_low (s : State) : driveRst false s = { s with rst := false } := rfl

/-- A low `rst` holds nothing. -/
@[simp] theorem holdReset_of_low {s : State} (h : s.rst = false) : holdReset s = s := by simp [holdReset, h]

/-- A high `rst` holds the block at its reset values (R81). -/
@[simp] theorem holdReset_of_high {s : State} (h : s.rst = true) : holdReset s = resetBlock s := by
  simp [holdReset, h]

@[simp] theorem holdReset_rst (s : State) : (holdReset s).rst = s.rst := by
  unfold holdReset; split <;> rfl

@[simp] theorem holdReset_cmdIn (s : State) : (holdReset s).cmdIn = s.cmdIn := by
  unfold holdReset; split <;> rfl

@[simp] theorem holdReset_taken (s : State) : (holdReset s).taken = s.taken := by
  unfold holdReset; split <;> rfl

@[simp] theorem holdReset_agenda (s : State) : (holdReset s).agenda = s.agenda := by
  unfold holdReset; split <;> rfl

end Sys2Proof.Machine
end

