-- ==== Sys2Proof/Laws/Ops.lean ====
section
/-! SUPPORT. One lemma per shared operation and per meaning that says everything it can do; later proofs cite these. -/

namespace Sys2Proof.Machine

/-- When a command may be accepted (R60). -/
theorem acceptEnabled_iff {cap : Nat} {i : Instr} {s : State} :
    acceptEnabled cap i s = true ↔ s.rst = false ∧ need i s.st ≤ cap - s.outq.length := by
  simp [acceptEnabled]

/-- A command never needs more than the four places every implementation has (D5). -/
theorem need_le_four (i : Instr) (v : SeqState) : need i v ≤ 4 := by
  cases i <;> cases v <;> simp [need]

/-- The capacity is at least four (R4). -/
theorem four_le_outqCap : 4 ≤ Config.outqCap := Nat.le_add_left 4 _

/-- What the sink's turn does, exactly (R67). -/
theorem sinkTake_cases (s : State) :
    (∃ b q, s.rst = false ∧ s.outq = b :: q ∧ sinkTake s = deliver b q s) ∨
    ((s.rst = true ∨ s.outq = []) ∧ sinkTake s = s) := by
  unfold sinkTake
  split
  next b q hr hq => exact .inl ⟨b, q, hr, hq, rfl⟩
  next h =>
    refine .inr ⟨?_, rfl⟩
    cases hr : s.rst with
    | true => exact .inl rfl
    | false =>
      cases hq : s.outq with
      | nil => exact .inr rfl
      | cons b q => exact absurd hq (h b q hr)

/-- The state a command leads to, as one function (R61 to R64); `exec_eq_next` says that it is the meaning. -/
def afterCommand (i : Instr) (s : State) : State :=
  match i, s.st with
  | .nop, _ => s
  | .start, .idle => setSt .frame (emit preamble (setCrc crcInit s))
  | .start, .frame => raiseSeqError .startInFrame s
  | .data b, .frame => setCrc (crcUpd s.crc b) (emit [b] s)
  | .data _, .idle => raiseSeqError .dataInIdle s
  | .endFrame, .frame => setSt .idle (emit (be16 s.crc ++ postamble) s)
  | .endFrame, .idle => raiseSeqError .endInIdle s

@[simp] theorem afterCommand_nop (s : State) : afterCommand .nop s = s := rfl

@[simp] theorem afterCommand_start_idle {s : State} (h : s.st = .idle) :
    afterCommand .start s = setSt .frame (emit preamble (setCrc crcInit s)) := by simp [afterCommand, h]

@[simp] theorem afterCommand_start_frame {s : State} (h : s.st = .frame) :
    afterCommand .start s = raiseSeqError .startInFrame s := by simp [afterCommand, h]

@[simp] theorem afterCommand_data_frame {s : State} (b : Byte) (h : s.st = .frame) :
    afterCommand (.data b) s = setCrc (crcUpd s.crc b) (emit [b] s) := by simp [afterCommand, h]

@[simp] theorem afterCommand_data_idle {s : State} (b : Byte) (h : s.st = .idle) :
    afterCommand (.data b) s = raiseSeqError .dataInIdle s := by simp [afterCommand, h]

@[simp] theorem afterCommand_endFrame_frame {s : State} (h : s.st = .frame) :
    afterCommand .endFrame s = setSt .idle (emit (be16 s.crc ++ postamble) s) := by simp [afterCommand, h]

@[simp] theorem afterCommand_endFrame_idle {s : State} (h : s.st = .idle) :
    afterCommand .endFrame s = raiseSeqError .endInIdle s := by simp [afterCommand, h]

/-- Every command completes, and its next state is `afterCommand`. -/
theorem exec_eq_next (i : Instr) (s : State) : exec i s = .next (afterCommand i s) := by
  cases i <;> cases h : s.st <;>
    simp [exec, afterCommand, execNop, execStart, execData, execEnd, payloadBytes, closingBytes, h]

/-- Everything a command can do: the inversion of `exec`. -/
theorem exec_cases {i : Instr} {s t : State} (h : exec i s = .next t) :
    (i = .nop ∧ t = s) ∨
    (i = .start ∧ s.st = .idle ∧ t = setSt .frame (emit preamble (setCrc crcInit s))) ∨
    (i = .start ∧ s.st = .frame ∧ t = raiseSeqError .startInFrame s) ∨
    (∃ b, i = .data b ∧ s.st = .frame ∧ t = setCrc (crcUpd s.crc b) (emit [b] s)) ∨
    (∃ b, i = .data b ∧ s.st = .idle ∧ t = raiseSeqError .dataInIdle s) ∨
    (i = .endFrame ∧ s.st = .frame ∧ t = setSt .idle (emit (be16 s.crc ++ postamble) s)) ∨
    (i = .endFrame ∧ s.st = .idle ∧ t = raiseSeqError .endInIdle s) := by
  have ht : afterCommand i s = t := by
    simpa [exec_eq_next] using h
  subst ht
  cases i <;> cases hs : s.st <;> simp [afterCommand, hs]

/-- No command touches the reset input, the command input, the bytes taken or the agenda. -/
theorem exec_frame {i : Instr} {s t : State} (h : exec i s = .next t) :
    t.rst = s.rst ∧ t.cmdIn = s.cmdIn ∧ t.taken = s.taken ∧ t.agenda = s.agenda := by
  rcases exec_cases h with ⟨-, rfl⟩ | ⟨-, -, rfl⟩ | ⟨-, -, rfl⟩ | ⟨b, -, -, rfl⟩ | ⟨b, -, -, rfl⟩ |
    ⟨-, -, rfl⟩ | ⟨-, -, rfl⟩ <;> simp

/-- A run of commands always completes. -/
theorem execAll_eq_next (is : List Instr) (s : State) :
    execAll is s = .next (is.foldl (fun u i => afterCommand i u) s) := by
  induction is generalizing s with
  | nil => rfl
  | cons i is ih => simp [execAll, exec_eq_next, ih]

/-- A run of commands in two parts. -/
theorem execAll_append (as bs : List Instr) (s : State) :
    execAll (as ++ bs) s = execAll bs (as.foldl (fun u i => afterCommand i u) s) := by
  simp [execAll_eq_next]

end Sys2Proof.Machine
end

