-- ==== Sys2Proof/Laws/PerInstr.lean ====
section
/-! SUPPORT. The per-instruction family: the canonical word of each command carries its row's match bits (R31) and,
where `d` is ignored, zeros there (R33). -/

/-- The match column of R31 (`cmd & 0x300`). -/
def Sys2Proof.Laws.tableMatch : Sys2Proof.Instr → Sys2Proof.CmdWord
  | .nop => 0x000#10
  | .start => 0x100#10
  | .data _ => 0x200#10
  | .endFrame => 0x300#10

/-- The field `d` of a command's canonical word (R32, R33). -/
def Sys2Proof.Laws.canonicalD : Sys2Proof.Instr → Sys2Proof.Byte
  | .nop => 0
  | .start => 0
  | .data b => b
  | .endFrame => 0

/-- The statement of the family CanonicalWord. -/
def Sys2Proof.Laws.CanonicalWord.Statement (i : Sys2Proof.Instr) : Prop :=
  Sys2Proof.encode i &&& 0x300#10 = Sys2Proof.Laws.tableMatch i ∧
    Sys2Proof.dField (Sys2Proof.encode i) = Sys2Proof.Laws.canonicalD i

theorem Sys2Proof.Laws.CanonicalWord.nop : Sys2Proof.Laws.CanonicalWord.Statement .nop := by
  constructor <;> rfl

theorem Sys2Proof.Laws.CanonicalWord.start : Sys2Proof.Laws.CanonicalWord.Statement .start := by
  constructor <;> rfl

theorem Sys2Proof.Laws.CanonicalWord.data (b : Sys2Proof.Byte) :
    Sys2Proof.Laws.CanonicalWord.Statement (.data b) := by
  have h : ∀ b : Sys2Proof.Byte, Sys2Proof.encode (.data b) &&& 0x300#10 = 0x200#10 ∧
      Sys2Proof.dField (Sys2Proof.encode (.data b)) = b := by decide
  exact h b

theorem Sys2Proof.Laws.CanonicalWord.endFrame : Sys2Proof.Laws.CanonicalWord.Statement .endFrame := by
  constructor <;> rfl
end

