-- ==== Sys2Proof/Laws/Step.lean ====
section
/-! SUPPORT. Everything one step can do, and the induction over a run, each once. -/

namespace Sys2Proof.Machine

/-- Everything the block's turn can do (R60): nothing (no word, or no room), or one accepted command. -/
theorem blockTurn_cases {cap : Nat} {s t : State} (h : blockTurn cap s = .next t) :
    (s.cmdIn = [] ∧ t = s) ∨
    (∃ w ws, s.cmdIn = w :: ws ∧ acceptEnabled cap (decode w) s = false ∧ t = s) ∨
    (∃ w ws, s.cmdIn = w :: ws ∧ acceptEnabled cap (decode w) s = true ∧
      exec (decode w) (consume ws s) = .next t) := by
  unfold blockTurn at h
  split at h
  next hc => exact .inl ⟨hc, by simpa using h.symm⟩
  next w ws hc =>
    split at h
    next ha => exact .inr (.inr ⟨w, ws, hc, ha, h⟩)
    next ha => exact .inr (.inl ⟨w, ws, hc, by simpa using ha, by simpa using h.symm⟩)

/-- Everything one step can do: the inversion of `stepWith`. -/
theorem stepWith_cases {cap : Nat} {s t : State} (h : stepWith cap s = .next t) :
    (currentTurn s = .block ∧ blockTurn cap (endTurn (holdReset s)) = .next t) ∨
    (currentTurn s = .sink ∧ t = sinkTake (endTurn (holdReset s))) ∨
    (∃ w, currentTurn s = .present w ∧ t = present w (endTurn (holdReset s))) ∨
    (∃ level, currentTurn s = .reset level ∧ t = driveRst level (endTurn (holdReset s))) := by
  unfold stepWith takeTurn at h
  split at h
  next hb => exact .inl ⟨hb, h⟩
  next hs => exact .inr (.inl ⟨hs, by simpa using h.symm⟩)
  next w hp => exact .inr (.inr (.inl ⟨w, hp, by simpa using h.symm⟩))
  next level hr => exact .inr (.inr (.inr ⟨level, hr, by simpa using h.symm⟩))

/-- With `rst` low a step is the turn of the agent whose turn it is. -/
theorem step_of_low {s : State} (h : s.rst = false) :
    step s = takeTurn Config.outqCap (currentTurn s) (endTurn s) := by
  simp [step, stepWith, h]

/-- With `rst` high a step is a turn against the reset values (R81). -/
theorem step_of_high {s : State} (h : s.rst = true) :
    step s = takeTurn Config.outqCap (currentTurn s) (endTurn (resetBlock s)) := by
  simp [step, stepWith, h]

/-- An accepted command (R60). -/
theorem blockTurn_accept {cap : Nat} {s : State} {w : CmdWord} {ws : List CmdWord} (hc : s.cmdIn = w :: ws)
    (ha : acceptEnabled cap (decode w) s = true) : blockTurn cap s = exec (decode w) (consume ws s) := by
  unfold blockTurn; rw [hc]; simp [ha]

/-- A waiting command (R60). -/
theorem blockTurn_wait {cap : Nat} {s : State} {w : CmdWord} {ws : List CmdWord} (hc : s.cmdIn = w :: ws)
    (ha : acceptEnabled cap (decode w) s = false) : blockTurn cap s = .next s := by
  unfold blockTurn; rw [hc]; simp [ha]

/-- No command. -/
theorem blockTurn_idle {cap : Nat} {s : State} (hc : s.cmdIn = []) : blockTurn cap s = .next s := by
  unfold blockTurn; rw [hc]

/-- One step uses up one turn of the agenda. -/
theorem stepWith_agenda {cap : Nat} {s t : State} (h : stepWith cap s = .next t) :
    t.agenda = s.agenda.tail := by
  rcases stepWith_cases h with ⟨-, hb⟩ | ⟨-, rfl⟩ | ⟨w, -, rfl⟩ | ⟨level, -, rfl⟩
  · rcases blockTurn_cases hb with ⟨-, rfl⟩ | ⟨w, ws, -, -, rfl⟩ | ⟨w, ws, -, -, he⟩
    · simp
    · simp
    · simpa using (exec_frame he).2.2.2
  · rcases sinkTake_cases (endTurn (holdReset s)) with ⟨b, q, -, -, hs⟩ | ⟨-, hs⟩ <;> simp [hs]
  · simp
  · cases level <;> simp

/-- Everything one step of the machine can do while `rst` is low. -/
theorem step_cases_of_low {s t : State} (hr : s.rst = false) (h : step s = .next t) :
    (currentTurn s = .block ∧ t = endTurn s) ∨
    (∃ w ws, currentTurn s = .block ∧ s.cmdIn = w :: ws ∧ acceptEnabled Config.outqCap (decode w) s = true ∧
      t = afterCommand (decode w) (consume ws (endTurn s))) ∨
    (currentTurn s = .sink ∧ t = endTurn s) ∨
    (∃ b q, currentTurn s = .sink ∧ s.outq = b :: q ∧ t = deliver b q (endTurn s)) ∨
    (∃ w, currentTurn s = .present w ∧ t = present w (endTurn s)) ∨
    (currentTurn s = .reset true ∧ t = resetBlock { endTurn s with rst := true }) ∨
    (currentTurn s = .reset false ∧ t = endTurn s) := by
  rcases stepWith_cases h with ⟨hc, hb⟩ | ⟨hc, rfl⟩ | ⟨w, hc, rfl⟩ | ⟨level, hc, rfl⟩
  all_goals rw [holdReset_of_low hr] at *
  · rcases blockTurn_cases hb with ⟨-, rfl⟩ | ⟨w, ws, -, -, rfl⟩ | ⟨w, ws, hw, ha, hx⟩
    · exact .inl ⟨hc, rfl⟩
    · exact .inl ⟨hc, rfl⟩
    · rw [exec_eq_next] at hx
      injection hx with hx
      exact .inr (.inl ⟨w, ws, hc, hw, ha, hx.symm⟩)
  · rcases sinkTake_cases (endTurn s) with ⟨b, q, -, hq, hs⟩ | ⟨-, hs⟩ <;> rw [hs]
    · exact .inr (.inr (.inr (.inl ⟨b, q, hc, hq, rfl⟩)))
    · exact .inr (.inr (.inl ⟨hc, rfl⟩))
  · exact .inr (.inr (.inr (.inr (.inl ⟨w, hc, rfl⟩))))
  · cases level with
    | true => exact .inr (.inr (.inr (.inr (.inr (.inl ⟨hc, rfl⟩)))))
    | false =>
      refine .inr (.inr (.inr (.inr (.inr (.inr ⟨hc, ?_⟩)))))
      ext1 <;> simp [hr]

/-- A property every step keeps holds after every run. -/
theorem runSteps_induction {P : State → Prop} (hstep : ∀ s t, P s → step s = .next t → P t) :
    ∀ k s t, P s → runSteps k s = .next t → P t := by
  intro k
  induction k with
  | zero => intro s t hs h; simp [runSteps] at h; exact h ▸ hs
  | succ k ih =>
    intro s t hs h
    cases hu : step s with
    | next u => exact ih u t (hstep s u hs hu) (by simpa [runSteps, hu] using h)
    | fault r => simp [runSteps, hu] at h
    | refused r => simp [runSteps, hu] at h

/-- The first step of a run. -/
theorem runSteps_succ {k : Nat} {s t : State} (h : runSteps (k + 1) s = .next t) :
    ∃ u, step s = .next u ∧ runSteps k u = .next t := by
  cases hu : step s with
  | next u => exact ⟨u, rfl, by simpa [runSteps, hu] using h⟩
  | fault r => exact nomatch r
  | refused r => simp [runSteps, hu] at h

/-- A property that every step taken by an allowed turn keeps holds after every run whose turns are all allowed. -/
theorem runSteps_induction_on_turns {P : State → Prop} {A : Turn → Prop} (hA : A .block)
    (hstep : ∀ s t, P s → A (currentTurn s) → step s = .next t → P t) :
    ∀ k s t, P s → (∀ u ∈ s.agenda.take k, A u) → runSteps k s = .next t → P t := by
  intro k
  induction k with
  | zero => intro s t hs _ h; simp [runSteps] at h; exact h ▸ hs
  | succ k ih =>
    intro s t hs hag h
    obtain ⟨u, hu, hr⟩ := runSteps_succ h
    have hagu : u.agenda = s.agenda.tail := stepWith_agenda hu
    cases ha : s.agenda with
    | nil =>
      exact ih u t (hstep s u hs (by simpa [currentTurn, ha] using hA) hu) (by simp [hagu, ha]) hr
    | cons v vs =>
      refine ih u t (hstep s u hs (by simpa [currentTurn, ha] using hag v (by simp [ha])) hu) ?_ hr
      intro x hx
      exact hag x (by simp only [hagu, ha, List.tail_cons] at hx; simp [ha, hx])

/-- `runSteps` is the host's run of the core. -/
theorem runSteps_eq_core_run (k : Nat) (s : State) : runSteps k s = Host.Core.run Sys2Proof.core k s := by
  induction k generalizing s with
  | zero => rfl
  | succ k ih =>
    cases hu : step s with
    | next u =>
      have hc : Sys2Proof.core.step s = .next u := hu
      simp [runSteps, Host.Core.run, hu, hc, ih]
      rfl
    | fault r => exact nomatch r
    | refused r =>
      have hc : Sys2Proof.core.step s = .refused r := hu
      simp [runSteps, Host.Core.run, hu, hc]
      rfl

end Sys2Proof.Machine
end

