-- ==== Sys2Proof/Tests/Slice0.lean ====
section
/-! SUPPORT. Tests whose expected results are the spec's (spec/95_test_vectors.md unless another file is named), and a
witness for the hypotheses of every statement that has some. -/

open Sys2Proof Sys2Proof.Machine

/-! ### Well-formedness: an ill-formed line for each check, refused (R35, R36) -/

theorem test_wf_refuses_data_256 : (Line.data 256).wf = false := by decide
theorem test_wf_accepts_data_255 : (Line.data 255).wf = true := by decide
theorem test_wf_refuses_frame_with_300 : (Line.frame [1, 300]).wf = false := by decide
theorem test_wf_refuses_bytes_with_256 : (Line.bytes [256]).wf = false := by decide
theorem test_wf_refuses_bytes_without_operand : (Line.bytes []).wf = false := by decide
theorem test_wf_refuses_ascii_control : (Line.ascii ['A', Char.ofNat 0x1F]).wf = false := by decide
theorem test_wf_refuses_ascii_delete : (Line.ascii [Char.ofNat 0x7F]).wf = false := by decide
theorem test_wf_refuses_frame_text_control : (Line.frameText ['A', Char.ofNat 0x1F]).wf = false := by decide
theorem test_wf_accepts_printable_edges : (Line.ascii [Char.ofNat 0x20, Char.ofNat 0x7E]).wf = true := by decide

/-! ### Decoding: words written bit by bit from R30, R31, and section 2.1's words -/

theorem test_decode_nop_bits : decode 0b0000000000#10 = .nop := by decide
theorem test_decode_nop_ignored_ones : decode 0b0011111111#10 = .nop := by decide
theorem test_decode_start_bits : decode 0b0100000000#10 = .start := by decide
theorem test_decode_start_ignored : decode 0b0110100101#10 = .start := by decide
theorem test_decode_data_bits : decode 0b1011101110#10 = .data 0xEE#8 := by decide
theorem test_decode_data_zero : decode 0b1000000000#10 = .data 0x00#8 := by decide
theorem test_decode_end_bits : decode 0b1100000000#10 = .endFrame := by decide
theorem test_decode_end_ignored_ones : decode 0b1111111111#10 = .endFrame := by decide
theorem test_table_word_data : decodeTableWord 16 0x201 = some (.data 0x01#8) := by decide
theorem test_eleven_bits_rejected : decodeTableWord 16 0x400 = none := by decide
theorem test_encode_data : encode (.data 0xA5#8) = 0x2A5#10 := by decide

/-! ### The CRC and the frame: sections 2.2 to 2.4 -/

theorem test_crcUpd_V_UPD_1 : crcUpd 0xFFFF#16 0x00#8 = 0x40BF#16 := by decide
theorem test_crcUpd_V_UPD_3 : crcUpd 0x807E#16 0x02#8 = 0xE181#16 := by decide
theorem test_crcUpd_V_UPD_4 : crcUpd 0xFFFF#16 0xFF#8 = 0x00FF#16 := by decide
theorem test_crcUpd_V_UPD_7 : crcUpd 0x0000#16 0x80#8 = 0xA001#16 := by decide
theorem test_crc_V_CRC_4 :
    crc16Modbus [0x31#8, 0x32#8, 0x33#8, 0x34#8, 0x35#8, 0x36#8, 0x37#8, 0x38#8, 0x39#8] = 0x4B37#16 := by
  decide +kernel
theorem test_crcModel_V_CRC_3 : crcModel [0x01#8, 0x02#8] = 0xE181#16 := by decide +kernel
theorem test_encodeFrame_V_ENC_1 : encodeFrame [] = [0xEE#8, 0xEF#8, 0xFF#8, 0xFF#8, 0x0D#8, 0x0A#8] := by decide
theorem test_encodeFrame_V_ENC_9 : encodeFrame [0x0D#8, 0x0A#8] =
    [0xEE#8, 0xEF#8, 0x0D#8, 0x0A#8, 0x27#8, 0x85#8, 0x0D#8, 0x0A#8] := by decide +kernel

/-! ### The commands: section 2.6 (one step, a small state) -/

/-- A state of the five fields of R10, the rest at rest. -/
def blockState (st : SeqState) (crc : Crc) (err : Bool) (cause : BitVec 2) (outq : List Byte) : State :=
  { State.reset with st := st, crc := crc, err := err, cause := cause, outq := outq }

/-- The five fields of R10, where the machine goes on. -/
def fieldsAfter (o : Host.Outcome State Fault Refusal) : Option (SeqState × Crc × Bool × BitVec 2 × List Byte) :=
  match o with
  | .next s => some (s.st, s.crc, s.err, s.cause, s.outq)
  | .fault _ => none
  | .refused _ => none

theorem test_nop_V_CMD_2 : fieldsAfter (exec (decode 0x0FF#10) (blockState .frame 0x807E#16 false 0 [0x11#8])) =
    some (.frame, 0x807E#16, false, 0, [0x11#8]) := by decide
theorem test_start_V_CMD_4 : fieldsAfter (exec (decode 0x100#10) (blockState .frame 0x807E#16 false 0 [0x11#8])) =
    some (.frame, 0x807E#16, true, 3, [0x11#8]) := by decide
theorem test_start_V_CMD_13 : fieldsAfter (exec (decode 0x1A5#10) (blockState .idle 0x0000#16 true 3 [0x11#8])) =
    some (.frame, 0xFFFF#16, true, 3, [0x11#8, 0xEE#8, 0xEF#8]) := by decide
theorem test_data_V_CMD_5 : fieldsAfter (exec (decode 0x201#10) (blockState .frame 0xFFFF#16 false 0 [0x11#8])) =
    some (.frame, 0x807E#16, false, 0, [0x11#8, 0x01#8]) := by decide
theorem test_data_V_CMD_7 : fieldsAfter (exec (decode 0x255#10) (blockState .idle 0xFFFF#16 false 0 [0x11#8])) =
    some (.idle, 0xFFFF#16, true, 1, [0x11#8]) := by decide
theorem test_end_V_CMD_8 : fieldsAfter (exec (decode 0x300#10) (blockState .frame 0xE181#16 false 0 [0x11#8])) =
    some (.idle, 0xE181#16, false, 0, [0x11#8, 0xE1#8, 0x81#8, 0x0D#8, 0x0A#8]) := by decide
theorem test_end_V_CMD_11 : fieldsAfter (exec (decode 0x300#10) (blockState .idle 0xFFFF#16 true 1 [0x11#8])) =
    some (.idle, 0xFFFF#16, true, 1, [0x11#8]) := by decide

/-! ### Acceptance with OUTQ_CAP = 4: section 2.7 -/

theorem test_accept_V_BP_1 : acceptEnabled 4 .start (blockState .idle 0 false 0 [1, 2, 3]) = false := by decide
theorem test_accept_V_BP_2 : acceptEnabled 4 .start (blockState .idle 0 false 0 [1, 2]) = true := by decide
theorem test_accept_V_BP_4 : acceptEnabled 4 .endFrame (blockState .frame 0 false 0 [1]) = false := by decide
theorem test_accept_V_BP_6 : acceptEnabled 4 (.data 7) (blockState .idle 0 false 0 [1, 2, 3, 4]) = true := by decide
theorem test_accept_V_BP_8 : acceptEnabled 4 .nop { State.reset with rst := true } = false := by decide
/-- Step 4 of program P6: with the queue full, END waits and stays on the input. -/
theorem test_end_waits_P6 :
    stepWith 4 { blockState .frame 0x9C0D#16 false 0 [0xEE#8, 0xEF#8, 0xEE#8, 0xEF#8] with cmdIn := [0x300#10] } =
      .next { blockState .frame 0x9C0D#16 false 0 [0xEE#8, 0xEF#8, 0xEE#8, 0xEF#8] with cmdIn := [0x300#10] } := by
  rfl

/-! ### Reset and the first command after it: section 2.8, R80, R83 -/

theorem test_reset_V_RST_1 :
    fieldsAfter (step { blockState .frame 0x55FF#16 false 0 [0x33#8] with agenda := [.reset true] }) =
      some (.idle, 0xFFFF#16, false, 0, []) := by decide
theorem test_first_command_start :
    fieldsAfter (step (State.reset.withFetchWord 16 0x100)) = some (.frame, 0xFFFF#16, false, 0, [0xEE#8, 0xEF#8]) := by
  decide
theorem test_first_command_end_is_error :
    fieldsAfter (step (State.reset.withFetchWord 16 0x300)) = some (.idle, 0xFFFF#16, true, 2, []) := by decide
theorem test_first_command_data_is_error :
    fieldsAfter (step (State.reset.withFetchWord 16 0x255)) = some (.idle, 0xFFFF#16, true, 1, []) := by decide
theorem test_first_command_nop : step (State.reset.withFetchWord 16 0x000) = .next State.reset := by rfl

/-! ### Listings: R35, R36 -/

theorem test_assemble_data_hex : assembleLine ['D', 'A', 'T', 'A', ' ', '0', 'x', 'E', 'E', ' ', ';', 'x'] =
    .ok [0x2EE#10] := by rfl
theorem test_assemble_frame : assembleLine ['F', 'R', 'A', 'M', 'E', ' ', '0', 'x', '0', '1', ',', ' ', '2'] =
    .ok [0x100#10, 0x201#10, 0x202#10, 0x300#10] := by rfl
/-- The first line of program P4, with the words P4 gives for it. -/
theorem test_assemble_frame_text_P4 :
    assembleLine ['F', 'R', 'A', 'M', 'E', ' ', '"', '1', '2', '3', '4', '5', '6', '7', '8', '9', '"'] =
      .ok [0x100#10, 0x231#10, 0x232#10, 0x233#10, 0x234#10, 0x235#10, 0x236#10, 0x237#10, 0x238#10, 0x239#10,
           0x300#10] := by rfl
theorem test_assemble_ascii : assembleLine ['A', 'S', 'C', 'I', 'I', ' ', '"', '1', '2', '"'] =
    .ok [0x231#10, 0x232#10] := by rfl
theorem test_assemble_refuses_256 : assembleLine ['D', 'A', 'T', 'A', ' ', '2', '5', '6'] = .error .outOfRange := by rfl
theorem test_assemble_refuses_lower_case : assembleLine ['n', 'o', 'p'] = .error .unknownMnemonic := by rfl
theorem test_disassemble_data : disassemble 0x2AB#10 = ['D', 'A', 'T', 'A', ' ', '0', 'x', 'A', 'B'] := by rfl

/-! ### Witnesses: each statement's hypotheses hold together somewhere -/

/-- A frame open, one byte queued, END on the input. -/
def openState : State := { blockState .frame 0x807E#16 false 0 [0x11#8] with cmdIn := [0x300#10, 0x000#10] }

/-- A state no queue of the open capacity has room in: its queue is exactly full. -/
def fullState : State :=
  { blockState .frame 0x807E#16 false 0 (List.replicate Config.outqCap 0x11#8) with cmdIn := [0x201#10] }

theorem witness_idle_state : State.reset.st = .idle ∧ State.reset.err = false ∧ State.reset.cause = 0 := by decide
theorem witness_frame_state : openState.st = .frame ∧ openState.err = false ∧ openState.cause = 0 := by decide
theorem witness_idle_keeps_crc :
    State.reset.st = .idle ∧ Instr.endFrame ≠ .start ∧
      exec .endFrame State.reset = .next (raiseSeqError .endInIdle State.reset) := ⟨rfl, by decide, rfl⟩
theorem witness_end_after_drain : State.reset.rst = false ∧ State.reset.outq = [] := by decide
theorem witness_data_in_idle_recorded :
    exec (.data 0x55#8) State.reset = .next { State.reset with err := true, cause := 1#2 } := rfl
theorem witness_end_in_idle_recorded :
    exec .endFrame State.reset = .next { State.reset with err := true, cause := 2#2 } := rfl
theorem witness_start_in_frame_recorded :
    exec .start openState = .next { openState with err := true, cause := 3#2 } := rfl
theorem witness_illegal_data : legalIn (.data 0x55#8) State.reset.st = false := by decide
theorem witness_illegal_end : legalIn .endFrame State.reset.st = false := by decide
theorem witness_illegal_start : legalIn .start openState.st = false := by decide
theorem witness_later_error :
    legalIn .endFrame (blockState .idle 0xFFFF#16 true 1 []).st = false ∧
      (blockState .idle 0xFFFF#16 true 1 []).err = true := by decide
theorem witness_error_stays :
    ({ blockState .idle 0xFFFF#16 true 1 [0x11#8] with agenda := [.sink] } : State).rst = false ∧
    (∀ u ∈ [Turn.sink].take 1, u.assertsReset = false) ∧
    runSteps 1 { blockState .idle 0xFFFF#16 true 1 [0x11#8] with agenda := [.sink] } =
      .next { blockState .idle 0xFFFF#16 true 1 [] with taken := [0x11#8] } := ⟨rfl, by decide, rfl⟩
theorem witness_step_accepts :
    currentTurn (State.reset.withFetchWord 16 0x100) = .block ∧ (State.reset.withFetchWord 16 0x100).rst = false ∧
    (State.reset.withFetchWord 16 0x100).cmdIn = 0x100#10 :: [] ∧ decode 0x100#10 = .start ∧
    need .start (State.reset.withFetchWord 16 0x100).st ≤
      Config.outqCap - (State.reset.withFetchWord 16 0x100).outq.length := by decide
/-- The boundary of acceptance: exactly the room END needs. -/
theorem witness_step_accepts_at_the_boundary :
    need .endFrame SeqState.frame ≤ Config.outqCap - (List.replicate Config.extraPlaces 0x11#8).length := by
  simp [Config.outqCap, need]
theorem witness_step_waits :
    currentTurn fullState = .block ∧ fullState.rst = false ∧ fullState.cmdIn = 0x201#10 :: [] ∧
    decode 0x201#10 = .data 0x01#8 ∧ Config.outqCap - fullState.outq.length < need (.data 0x01#8) fullState.st := by
  refine ⟨rfl, rfl, rfl, by decide, ?_⟩
  simp [fullState, blockState, need]
/-- The other side of the boundary: one place fewer than END needs. -/
theorem witness_step_waits_at_the_boundary :
    Config.outqCap - (List.replicate (Config.extraPlaces + 1) 0x11#8).length < need .endFrame SeqState.frame := by
  simp [Config.outqCap, need]
theorem witness_sink_takes :
    currentTurn { openState with agenda := [.sink] } = .sink ∧ ({ openState with agenda := [.sink] } : State).rst = false ∧
    ({ openState with agenda := [.sink] } : State).outq = 0x11#8 :: [] := by decide
theorem witness_sink_finds_nothing :
    currentTurn { State.reset with agenda := [.sink] } = .sink ∧
    ({ State.reset with agenda := [.sink] } : State).rst = false ∧
    ({ State.reset with agenda := [.sink] } : State).outq = [] := by decide
theorem witness_sink_step :
    step { State.reset with agenda := [.sink] } = .next State.reset := rfl
theorem witness_producer_turn :
    currentTurn { State.reset with agenda := [.present 0x100#10] } = .present 0x100#10 ∧
    ({ State.reset with agenda := [.present 0x100#10] } : State).rst = false := by decide
/-- A command and a sink take both enabled: DATA with one byte queued. -/
theorem witness_commute :
    ({ openState with cmdIn := [0x201#10] } : State).cmdIn = 0x201#10 :: [] ∧
    ({ openState with cmdIn := [0x201#10] } : State).outq = 0x11#8 :: [] ∧
    acceptEnabled Config.outqCap (decode 0x201#10) { openState with cmdIn := [0x201#10] } = true := by decide
theorem witness_blocked : fullState.Blocked :=
  ⟨0x201#10, [], rfl, rfl, by simp [fullState, blockState, decode, opField, dField, opNop, opStart, opData, need]⟩
theorem witness_stuck_run :
    (∀ u ∈ fullState.agenda.take 1, u ≠ .sink ∧ u.assertsReset = false) ∧ ∃ t, runSteps 1 fullState = .next t := by
  refine ⟨by decide, ?_⟩
  obtain ⟨t, ht⟩ : ∃ t, step fullState = .next t := by
    rw [step_of_low rfl]
    exact ⟨fullState, blockTurn_wait (s := fullState) (ws := []) rfl (by
      simp [acceptEnabled, fullState, blockState, decode, opField, dField, opNop, opStart, opData, need])⟩
  exact ⟨t, by simp [runSteps, ht]⟩
theorem witness_drained :
    ({ openState with agenda := [.sink, .block] } : State).rst = false ∧
    ({ openState with agenda := [.sink, .block] } : State).cmdIn = 0x300#10 :: [0x000#10] ∧
    ({ openState with agenda := [.sink, .block] } : State).agenda =
      List.replicate openState.outq.length .sink ++ .block :: [] := by decide
theorem witness_reset_turn :
    currentTurn { openState with agenda := [.reset true] } = .reset true ∧
    ∃ t, step { openState with agenda := [.reset true] } = .next t := ⟨rfl, _, rfl⟩
theorem witness_error_survives_a_step :
    ({ openState with err := true, cause := 1, cmdIn := [0x201#10] } : State).rst = false ∧
    currentTurn { openState with err := true, cause := 1, cmdIn := [0x201#10] } ≠ .reset true ∧
    ({ openState with err := true, cause := 1, cmdIn := [0x201#10] } : State).err = true ∧
    ∃ t, step { openState with err := true, cause := 1, cmdIn := [0x201#10] } = .next t :=
  ⟨rfl, by decide, rfl, _, rfl⟩
/-- END accepted: the one way other than reset from FRAME to IDLE. -/
theorem witness_frame_closed :
    ({ openState with outq := [] } : State).rst = false ∧ currentTurn { openState with outq := [] } ≠ .reset true ∧
    ({ openState with outq := [] } : State).st = .frame ∧
    step { openState with outq := [] } = .next { openState with
      st := .idle, cmdIn := [0x000#10], outq := [0x80#8, 0x7E#8, 0x0D#8, 0x0A#8] } :=
  ⟨rfl, by decide, rfl, rfl⟩
theorem witness_high_reset :
    ({ State.reset with rst := true, cmdIn := [0x100#10] } : State).rst = true ∧
    (∀ u ∈ ({ State.reset with rst := true, cmdIn := [0x100#10] } : State).agenda.take 1, u.releasesReset = false) ∧
    runSteps 1 { State.reset with rst := true, cmdIn := [0x100#10] } =
      .next { State.reset with rst := true, cmdIn := [0x100#10] } := ⟨rfl, by decide, rfl⟩
theorem witness_reset_released :
    ({ openState with rst := true, agenda := [.reset false, .block] } : State).rst = true ∧
    ({ openState with rst := true, agenda := [.reset false, .block] } : State).cmdIn = 0x300#10 :: [0x000#10] ∧
    ({ openState with rst := true, agenda := [.reset false, .block] } : State).agenda = .reset false :: .block :: [] := by
  decide
theorem witness_st_written_by_start :
    (State.reset.withFetchWord 16 0x100).rst = false ∧
    ∃ t, step (State.reset.withFetchWord 16 0x100) = .next t ∧ t.st ≠ (State.reset.withFetchWord 16 0x100).st :=
  ⟨rfl, _, rfl, by decide⟩
theorem witness_st_written_by_end :
    ∃ t, step { openState with outq := [] } = .next t ∧ t.st ≠ ({ openState with outq := [] } : State).st :=
  ⟨_, rfl, by decide⟩
theorem witness_st_written_by_reset :
    ∃ t, step { openState with agenda := [.reset true] } = .next t ∧ t.st ≠ openState.st := ⟨_, rfl, by decide⟩
theorem witness_crc_written_by_data :
    openState.rst = false ∧ ∃ t, step { openState with cmdIn := [0x201#10] } = .next t ∧ t.crc ≠ openState.crc :=
  ⟨rfl, _, rfl, by decide⟩
theorem witness_crc_written_by_start :
    ∃ t, step { blockState .idle 0xE181#16 false 0 [] with cmdIn := [0x100#10] } = .next t ∧ t.crc ≠ 0xE181#16 :=
  ⟨_, rfl, by decide⟩
theorem witness_crc_written_by_reset :
    ∃ t, step { openState with agenda := [.reset true] } = .next t ∧ t.crc ≠ openState.crc := ⟨_, rfl, by decide⟩
theorem witness_cause_written_by_error :
    (State.reset.withFetchWord 16 0x300).rst = false ∧
    ∃ t, step (State.reset.withFetchWord 16 0x300) = .next t ∧ t.cause ≠ (State.reset.withFetchWord 16 0x300).cause :=
  ⟨rfl, _, rfl, by decide⟩
theorem witness_cause_written_by_reset :
    ∃ t, step { blockState .idle 0xFFFF#16 true 2 [] with agenda := [.reset true] } = .next t ∧ t.cause ≠ 2 :=
  ⟨_, rfl, by decide⟩
/-- The invariant holds of a state with a full queue. -/
theorem witness_inv_full_queue : fullState.Inv :=
  ⟨by simp [fullState, blockState], by simp [fullState, blockState], by simp [fullState, blockState]⟩
theorem witness_inv_step : ∃ t, step State.reset = .next t := ⟨_, rfl⟩
/-- The wire is framed with one frame open and one payload byte sent. -/
theorem witness_wire_framed :
    ({ blockState .frame 0x807E#16 false 0 [0x01#8] with taken := [0xEE#8, 0xEF#8] } : State).WireFramed :=
  ⟨[], by simp [blockState], fun _ => ⟨[0x01#8], by decide, by decide⟩⟩
theorem witness_streaming :
    State.reset.st = .idle ∧
    [Instr.nop, .start, .data 1, .nop, .endFrame].filter (fun i => i ≠ .nop) = frameCommands [1] := by decide
theorem witness_refinement :
    ({ openState with agenda := [.present 0x100#10, .sink] } : State).rst = false ∧
    (∀ u ∈ ({ openState with agenda := [.present 0x100#10, .sink] } : State).agenda.take 2, u.assertsReset = false) ∧
    ∃ t, runSteps 2 { openState with agenda := [.present 0x100#10, .sink] } = .next t := ⟨rfl, by decide, _, rfl⟩
/-- The empty frame accepted, the sink taking its preamble in between. -/
theorem witness_schedule :
    ({ State.reset with cmdIn := [0x100#10, 0x300#10], agenda := [.block, .sink, .sink, .block] } : State).rst = false ∧
    (∀ u ∈ [Turn.block, .sink, .sink, .block].take 4, u.assertsReset = false ∧ u.presents = []) ∧
    ([0x100#10, 0x300#10].map decode).filter (fun i => i ≠ .nop) = frameCommands [] ∧
    ∃ t, runSteps 4 { State.reset with cmdIn := [0x100#10, 0x300#10], agenda := [.block, .sink, .sink, .block] } =
      .next t ∧ t.cmdIn = [] := ⟨rfl, by decide, by decide, _, rfl, rfl⟩
theorem witness_running_checksum :
    State.reset.st = .idle ∧ Instr.endFrame ∉ [Instr.data 1, .start] ∧ Instr.start ∉ [Instr.nop, .data 2, .endFrame] := by
  decide
theorem witness_frames_equal : encodeFrame [0x00#8] = encodeFrame [0x00#8] := rfl
theorem witness_distinct_bytes : (0x00#8 : Byte) ≠ 0x01#8 := by decide
theorem witness_zero_byte_fixed : crcUpd 0xC001#16 0x00#8 = 0xC001#16 := by decide
theorem witness_instr_wf : (Instr.data 0xFF#8).wf = true := by decide
theorem witness_data_word : (0x2AB#10 &&& 0x300#10) = 0x200#10 := by decide
theorem witness_ascii_wf : (Line.ascii ['1', '2']).wf = true := by decide
theorem witness_instance : [State.reset, openState][1]? = some openState := rfl
end

section
/-! PROOFS. The rounds and the updates of the CRC register are injective (spec/40_crc_frame.md R45, R46), so a changed byte
is always seen in the checksum. -/

namespace Sys2Proof.Machine

/-- `iterTimes` is Mathlib's iteration. -/
theorem iterTimes_eq_iterate {α : Type} (f : α → α) (n : Nat) : iterTimes f n = f^[n] := by
  induction n with
  | zero => rfl
  | succ n ih => funext x; rw [iterTimes_succ, ih, Function.iterate_succ_apply]

/-- The bit a round shifts out stays readable at the top of its result, since the reflected polynomial has its top bit set
(R45). -/
theorem getLsbD_crcBit_top (c : Crc) : (crcBit c).getLsbD 15 = c.getLsbD 0 := by
  rw [crcBit_eq]
  cases c.getLsbD 0 <;> simp [polyR]

/-- A round loses nothing: the top bit of the result says whether the polynomial was XORed in. -/
theorem crcBit_injective : Function.Injective crcBit := by
  intro a b h
  have hlow : a.getLsbD 0 = b.getLsbD 0 := by
    rw [← getLsbD_crcBit_top, h, getLsbD_crcBit_top]
  have hshift : a >>> 1 = b >>> 1 := by
    rw [crcBit_eq, crcBit_eq, hlow] at h
    exact (BitVec.xor_left_inj _).mp h
  apply BitVec.eq_of_getLsbD_eq
  intro i _
  cases i with
  | zero => exact hlow
  | succ i => simpa [Nat.add_comm] using congrArg (·.getLsbD i) hshift

/-- The eight rounds of one byte lose nothing. -/
theorem iterTimes_crcBit_injective (n : Nat) : Function.Injective (iterTimes crcBit n) := by
  rw [iterTimes_eq_iterate]
  exact crcBit_injective.iterate n

/-- Different bytes take one register value to different ones. -/
theorem crcUpd_byte_injective (c : Crc) : Function.Injective (crcUpd c) := by
  intro a b h
  have hext : a.setWidth 16 = b.setWidth 16 :=
    (BitVec.xor_right_inj _).mp (iterTimes_crcBit_injective 8 h)
  simpa using congrArg (BitVec.setWidth 8) hext

/-- Different register values stay different under the same byte. -/
theorem crcUpd_crc_injective (b : Byte) : Function.Injective (crcUpd · b) :=
  fun _ _ h => (BitVec.xor_left_inj _).mp (iterTimes_crcBit_injective 8 h)

/-- Different register values stay different under the same bytes. -/
theorem foldl_crcUpd_injective (q : List Byte) : Function.Injective (q.foldl crcUpd) := by
  induction q with
  | nil => exact Function.injective_id
  | cons b q ih => exact ih.comp (crcUpd_crc_injective b)

/-- Settles O44: after the common prefix the changed byte makes the register values differ, and the common rest keeps them
different. -/
theorem oneChangedByteChangesTheChecksum : Obligations.OneChangedByteChangesTheChecksum := by
  unfold Obligations.OneChangedByteChangesTheChecksum
  intro p q b c hne heq
  unfold crc16Modbus at heq
  rw [List.foldl_append, List.foldl_append, List.foldl_cons, List.foldl_cons] at heq
  exact hne (crcUpd_byte_injective _ (foldl_crcUpd_injective q heq))

end Sys2Proof.Machine
end

section
/-! PROOFS. Laws of one command and of one step, field by field (spec/10_state.md R11 to R15): what each writes, and what a
step that runs no command and asserts no reset leaves unchanged. -/

namespace Sys2Proof.Machine

/-! ### The output stream under the updates of the state (R67) -/

@[simp] theorem outputStream_setSt (v : SeqState) (s : State) : outputStream (setSt v s) = outputStream s := rfl
@[simp] theorem outputStream_setCrc (c : Crc) (s : State) : outputStream (setCrc c s) = outputStream s := rfl
@[simp] theorem outputStream_raiseSeqError (e : SeqError) (s : State) :
    outputStream (raiseSeqError e s) = outputStream s := rfl
@[simp] theorem outputStream_present (w : CmdWord) (s : State) : outputStream (present w s) = outputStream s := rfl
@[simp] theorem outputStream_consume (ws : List CmdWord) (s : State) : outputStream (consume ws s) = outputStream s := rfl
@[simp] theorem outputStream_endTurn (s : State) : outputStream (endTurn s) = outputStream s := rfl

@[simp] theorem outputStream_emit (bs : List Byte) (s : State) : outputStream (emit bs s) = outputStream s ++ bs := by
  simp [outputStream]

/-- Taking the head byte moves it from the queue to the wire and leaves the stream as it was (R67). -/
theorem outputStream_deliver {b : Byte} {q : List Byte} {s : State} (h : s.outq = b :: q) :
    outputStream (deliver b q s) = outputStream s := by
  simp [outputStream, h]

/-! ### What one command writes -/

/-- The effects of a command: none, one of the three legal writes of R62 to R64, or some sequencing error, for which it needs
no room (R60, R71). -/
theorem afterCommand_cases (i : Instr) (s : State) :
    (i = .nop ∧ afterCommand i s = s) ∨
    (i = .start ∧ s.st = .idle ∧ afterCommand i s = setSt .frame (emit preamble (setCrc crcInit s))) ∨
    (∃ b, i = .data b ∧ s.st = .frame ∧ afterCommand i s = setCrc (crcUpd s.crc b) (emit [b] s)) ∨
    (i = .endFrame ∧ s.st = .frame ∧ afterCommand i s = setSt .idle (emit (be16 s.crc ++ postamble) s)) ∨
    (need i s.st = 0 ∧ ∃ e, afterCommand i s = raiseSeqError e s) := by
  rcases exec_cases (exec_eq_next i s) with ⟨hi, ht⟩ | ⟨hi, hs, ht⟩ | ⟨rfl, hs, ht⟩ | ⟨b, hi, hs, ht⟩ |
    ⟨b, rfl, hs, ht⟩ | ⟨hi, hs, ht⟩ | ⟨rfl, hs, ht⟩
  · exact .inl ⟨hi, ht⟩
  · exact .inr (.inl ⟨hi, hs, ht⟩)
  · exact .inr (.inr (.inr (.inr ⟨by simp [need, hs], _, ht⟩)))
  · exact .inr (.inr (.inl ⟨b, hi, hs, ht⟩))
  · exact .inr (.inr (.inr (.inr ⟨by simp [need, hs], _, ht⟩)))
  · exact .inr (.inr (.inr (.inl ⟨hi, hs, ht⟩)))
  · exact .inr (.inr (.inr (.inr ⟨by simp [need, hs], _, ht⟩)))

@[simp] theorem afterCommand_rst (i : Instr) (s : State) : (afterCommand i s).rst = s.rst :=
  (exec_frame (exec_eq_next i s)).1

@[simp] theorem afterCommand_cmdIn (i : Instr) (s : State) : (afterCommand i s).cmdIn = s.cmdIn :=
  (exec_frame (exec_eq_next i s)).2.1

/-- A command lengthens the queue by exactly its need (R60). -/
theorem afterCommand_outq_length (i : Instr) (s : State) :
    (afterCommand i s).outq.length = s.outq.length + need i s.st := by
  rcases afterCommand_cases i s with ⟨rfl, ht⟩ | ⟨rfl, hs, ht⟩ | ⟨b, rfl, hs, ht⟩ | ⟨rfl, hs, ht⟩ | ⟨hn, e, ht⟩
  · simp [need]
  · simp [ht, hs, need]
  · simp [ht, hs, need]
  · simp [ht, hs, need]
  · simp [ht, hn]

/-- The commands that write `st` are START in IDLE and END in FRAME (R11). -/
theorem afterCommand_st_changed {i : Instr} {s : State} (h : (afterCommand i s).st ≠ s.st) :
    (i = .start ∧ s.st = .idle ∧ (afterCommand i s).st = .frame) ∨
    (i = .endFrame ∧ s.st = .frame ∧ (afterCommand i s).st = .idle) := by
  rcases afterCommand_cases i s with ⟨-, ht⟩ | ⟨hi, hs, ht⟩ | ⟨b, -, -, ht⟩ | ⟨hi, hs, ht⟩ | ⟨-, e, ht⟩
  · simp [ht] at h
  · exact .inl ⟨hi, hs, by simp [ht]⟩
  · simp [ht] at h
  · exact .inr ⟨hi, hs, by simp [ht]⟩
  · simp [ht] at h

/-- The commands that write `crc` are START in IDLE and DATA in FRAME (R12). -/
theorem afterCommand_crc_changed {i : Instr} {s : State} (h : (afterCommand i s).crc ≠ s.crc) :
    (i = .start ∧ s.st = .idle ∧ (afterCommand i s).crc = 0xFFFF#16) ∨
    (∃ b, i = .data b ∧ s.st = .frame ∧ (afterCommand i s).crc = crcUpd s.crc b) := by
  rcases afterCommand_cases i s with ⟨-, ht⟩ | ⟨hi, hs, ht⟩ | ⟨b, hi, hs, ht⟩ | ⟨-, -, ht⟩ | ⟨-, e, ht⟩
  · simp [ht] at h
  · exact .inl ⟨hi, hs, by simp [ht, crcInit]⟩
  · exact .inr ⟨b, hi, hs, by simp [ht]⟩
  · simp [ht] at h
  · simp [ht] at h

/-- No error has code 0 (R70). -/
theorem SeqError.code_ne_zero (e : SeqError) : e.code ≠ 0 := by cases e <;> decide

/-- A command leaves `err` and `cause` alone or raises one of the sequencing errors (R71). -/
theorem afterCommand_err_cause (i : Instr) (s : State) :
    ((afterCommand i s).err = s.err ∧ (afterCommand i s).cause = s.cause) ∨
    ((afterCommand i s).err = true ∧ ∃ e, (afterCommand i s).cause = causeAfter s.err s.cause e) := by
  rcases afterCommand_cases i s with ⟨-, ht⟩ | ⟨-, -, ht⟩ | ⟨b, -, -, ht⟩ | ⟨-, -, ht⟩ | ⟨-, e, ht⟩
  · exact .inl (by simp [ht])
  · exact .inl (by simp [ht])
  · exact .inl (by simp [ht])
  · exact .inl (by simp [ht])
  · exact .inr ⟨by simp [ht], e, by simp [ht]⟩

/-- With `err` set a command changes neither `err` nor `cause`: the first error wins (R71, R75). -/
theorem afterCommand_keeps_error {i : Instr} {s : State} (h : s.err = true) :
    (afterCommand i s).err = true ∧ (afterCommand i s).cause = s.cause := by
  rcases afterCommand_err_cause i s with ⟨he, hc⟩ | ⟨he, e, hc⟩
  · exact ⟨he.trans h, hc⟩
  · exact ⟨he, by simp [hc, causeAfter, h]⟩

/-- A command that changes `cause` found `err` clear and records an error (R14). -/
theorem afterCommand_cause_changed {i : Instr} {s : State} (h : (afterCommand i s).cause ≠ s.cause) :
    s.err = false ∧ (afterCommand i s).err = true ∧ (afterCommand i s).cause ≠ 0 := by
  cases hs : s.err with
  | true => exact absurd (afterCommand_keeps_error hs).2 h
  | false =>
    rcases afterCommand_err_cause i s with ⟨-, hc⟩ | ⟨he, e, hc⟩
    · exact absurd hc h
    · exact ⟨rfl, he, by simpa [hc, causeAfter, hs] using e.code_ne_zero⟩

/-- The cause recorded by an error is never 0, if it was 0 only while `err` was clear. -/
theorem causeAfter_ne_zero {err : Bool} {cause : BitVec 2} (e : SeqError) (h : cause = 0 ↔ err = false) :
    causeAfter err cause e ≠ 0 := by
  cases err with
  | false => simpa [causeAfter] using e.code_ne_zero
  | true => simpa [causeAfter] using h

/-- Commands keep `cause` 0 exactly while `err` is clear (R14). -/
theorem afterCommand_causeMatchesErr {i : Instr} {s : State} (h : s.cause = 0 ↔ s.err = false) :
    (afterCommand i s).cause = 0 ↔ (afterCommand i s).err = false := by
  rcases afterCommand_err_cause i s with ⟨he, hc⟩ | ⟨he, e, hc⟩
  · rwa [hc, he]
  · simpa [hc, he] using causeAfter_ne_zero e h

/-- What a command does to the other fields does not depend on `err` and `cause` (R13): only the command and `st` choose
its effect. -/
theorem afterCommand_of_other_error (i : Instr) (s : State) (e : Bool) (c : BitVec 2) :
    ∃ e' c', afterCommand i { s with err := e, cause := c } = { afterCommand i s with err := e', cause := c' } := by
  obtain ⟨st, _, _, _, _, _, _, _, _⟩ := s
  cases i <;> cases st <;> exact ⟨_, _, rfl⟩

/-! ### What one step does -/

/-- What a step does with `rst` low, seen from the registers and the output stream: it asserts the reset, or it runs one
accepted command, or it changes none of them and the queue does not grow. -/
theorem step_effect_of_low {s t : State} (hr : s.rst = false) (h : step s = .next t) :
    (currentTurn s = .reset true ∧ t = resetBlock { endTurn s with rst := true }) ∨
    (∃ w ws, currentTurn s = .block ∧ s.cmdIn = w :: ws ∧ acceptEnabled Config.outqCap (decode w) s = true ∧
      t = afterCommand (decode w) (consume ws (endTurn s))) ∨
    (t.st = s.st ∧ t.crc = s.crc ∧ t.err = s.err ∧ t.cause = s.cause ∧ t.rst = false ∧
      t.outq.length ≤ s.outq.length ∧ outputStream t = outputStream s) := by
  rcases step_cases_of_low hr h with ⟨-, rfl⟩ | hcmd | ⟨-, rfl⟩ | ⟨b, q, -, hq, rfl⟩ | ⟨w, -, rfl⟩ | hreset | ⟨-, rfl⟩
  · exact .inr (.inr (by simp [hr]))
  · exact .inr (.inl hcmd)
  · exact .inr (.inr (by simp [hr]))
  · exact .inr (.inr (by simp [hr, hq, outputStream_deliver (s := endTurn s) hq]))
  · exact .inr (.inr (by simp [hr]))
  · exact .inl hreset
  · exact .inr (.inr (by simp [hr]))

/-- The reset puts every field of R10 at its reset value (R19, R80). -/
theorem resetBlock_atResetValues (s : State) : (resetBlock s).atResetValues := ⟨rfl, rfl, rfl, rfl, rfl⟩

/-- A step taken with `rst` high ends at the reset values, whoever's turn it is (R81). -/
theorem step_atResetValues_of_high {s t : State} (hr : s.rst = true) (h : step s = .next t) : t.atResetValues := by
  rcases stepWith_cases h with ⟨-, hb⟩ | ⟨-, rfl⟩ | ⟨w, -, rfl⟩ | ⟨level, -, rfl⟩
  all_goals rw [holdReset_of_high hr] at *
  · rcases blockTurn_cases hb with ⟨-, rfl⟩ | ⟨w, ws, -, -, rfl⟩ | ⟨w, ws, -, ha, -⟩
    · exact resetBlock_atResetValues s
    · exact resetBlock_atResetValues s
    · simp [acceptEnabled, hr] at ha
  · rcases sinkTake_cases (endTurn (resetBlock s)) with ⟨b, q, hlow, -, -⟩ | ⟨-, hs⟩
    · simp [hr] at hlow
    · rw [hs]
      exact resetBlock_atResetValues s
  · exact resetBlock_atResetValues s
  · cases level <;> exact resetBlock_atResetValues s

end Sys2Proof.Machine
end

section
/-! PROOFS. The invariant of the block (R14, R15, R81) is kept by every step. -/

namespace Sys2Proof.Machine

/-- The reset values meet the invariant. -/
theorem State.atResetValues.inv {s : State} (h : s.atResetValues) : s.Inv := by
  have ⟨_, _, herr, hcause, houtq⟩ := h
  exact ⟨by simp [houtq], by simp [herr, hcause], fun _ => h⟩

/-- An accepted command keeps the invariant: the queue had room for its need. -/
theorem afterCommand_inv {i : Instr} {s : State} (hi : s.Inv) (ha : acceptEnabled Config.outqCap i s = true) :
    (afterCommand i s).Inv := by
  obtain ⟨hlow, hroom⟩ := acceptEnabled_iff.mp ha
  refine ⟨?_, afterCommand_causeMatchesErr hi.causeMatchesErr, by simp [hlow]⟩
  have hfits := hi.queueFits
  rw [afterCommand_outq_length]
  omega

/-- Settles O25: with `rst` high a step ends at the reset values; with `rst` low only a reset, again to the reset values,
and an accepted command change anything the invariant reads, but for the sink, which shortens the queue. -/
theorem stepKeepsInv : Obligations.StepKeepsInv := by
  unfold Obligations.StepKeepsInv
  intro s t hi h
  cases hr : s.rst with
  | true => exact (step_atResetValues_of_high hr h).inv
  | false =>
    rcases step_effect_of_low hr h with ⟨-, rfl⟩ | ⟨w, ws, -, -, ha, rfl⟩ | ⟨-, -, herr, hcause, hlow, hlen, -⟩
    · exact (resetBlock_atResetValues _).inv
    · exact afterCommand_inv ⟨hi.queueFits, hi.causeMatchesErr, hi.resetHolds⟩ ha
    · exact ⟨hlen.trans hi.queueFits, by rw [hcause, herr]; exact hi.causeMatchesErr, by simp [hlow]⟩

/-- Settles O18. -/
theorem resetValues : Obligations.ResetValues := ⟨reset_st, reset_crc, reset_err, reset_cause, reset_outq⟩

/-- Settles O26: the state after reset has the reset values (O18). -/
theorem resetMeetsInv : Obligations.ResetMeetsInv :=
  State.atResetValues.inv resetValues

/-- Settles O51: `busy_o` and `err_o` are read off `st` and `err` by cases; the rest is the invariant and the reset
values. -/
theorem statusOutputs : Obligations.StatusOutputs := by
  unfold Obligations.StatusOutputs
  have hbusy (s : State) : (busyO s = 1 ↔ s.st = .frame) ∧ (busyO s = 0 ↔ s.st = .idle) := by
    cases h : s.st <;> simp [busyO, h]
  have herr (s : State) : (errO s = 1 ↔ s.err = true) ∧ (errO s = 0 ↔ s.err = false) := by
    cases h : s.err <;> simp [errO, h]
  refine ⟨fun s => ⟨rfl, (hbusy s).1, (hbusy s).2, (herr s).1, (herr s).2, rfl⟩, fun s hi => ?_, rfl, rfl, rfl, rfl⟩
  exact hi.causeMatchesErr.trans (herr s).2.symm

end Sys2Proof.Machine
end

section
/-! PROOFS. The wire is a sequence of whole frames and at most one open one (R12, R49, R65, R69). -/

namespace Sys2Proof.Machine

/-- One more byte folds into the checksum by one update (R46). -/
theorem crc16Modbus_append_singleton (p : List Byte) (b : Byte) :
    crc16Modbus (p ++ [b]) = crcUpd (crc16Modbus p) b := by
  simp [crc16Modbus]

/-- In IDLE the wire holds whole frames only. -/
theorem wireFramed_iff_of_idle {s : State} (h : s.st = .idle) :
    s.WireFramed ↔ ∃ ps : List (List Byte), outputStream s = (ps.map encodeFrame).flatten := by
  simp [State.WireFramed, h]

/-- In FRAME the wire ends in an open frame, whose checksum so far is in `crc`. -/
theorem wireFramed_iff_of_frame {s : State} (h : s.st = .frame) :
    s.WireFramed ↔ ∃ (ps : List (List Byte)) (p : List Byte),
      outputStream s = (ps.map encodeFrame).flatten ++ preamble ++ p ∧ s.crc = crc16Modbus p := by
  simp [State.WireFramed, h]

/-- `WireFramed` reads only `st`, `crc` and the output stream. -/
theorem State.WireFramed.congr {s t : State} (hw : s.WireFramed) (hst : t.st = s.st) (hcrc : t.crc = s.crc)
    (hout : outputStream t = outputStream s) : t.WireFramed := by
  unfold State.WireFramed
  rw [hst, hcrc, hout]
  exact hw

/-- Every command keeps the wire framed: START opens a frame, DATA extends it and its checksum alike, END closes it with
the checksum in `crc`, and the others send nothing. -/
theorem afterCommand_wireFramed {i : Instr} {s : State} (hw : s.WireFramed) : (afterCommand i s).WireFramed := by
  rcases afterCommand_cases i s with ⟨-, ht⟩ | ⟨-, hs, ht⟩ | ⟨b, -, hs, ht⟩ | ⟨-, hs, ht⟩ | ⟨-, e, ht⟩
  · rwa [ht]
  · obtain ⟨ps, hout⟩ := (wireFramed_iff_of_idle hs).mp hw
    rw [ht, wireFramed_iff_of_frame (setSt_st _ _)]
    exact ⟨ps, [], by simp [hout], by simp [crcInit]⟩
  · obtain ⟨ps, p, hout, hcrc⟩ := (wireFramed_iff_of_frame hs).mp hw
    rw [ht, wireFramed_iff_of_frame (by simpa using hs)]
    exact ⟨ps, p ++ [b], by simp [hout], by simp [hcrc, crc16Modbus_append_singleton]⟩
  · obtain ⟨ps, p, hout, hcrc⟩ := (wireFramed_iff_of_frame hs).mp hw
    rw [ht, wireFramed_iff_of_idle (setSt_st _ _)]
    exact ⟨ps ++ [p], by simp [hout, hcrc, encodeFrame]⟩
  · rw [ht]
    exact hw.congr rfl rfl rfl

/-- Settles O27: with no reset, a step runs one command or leaves the registers and the output stream as they were. -/
theorem stepKeepsWireFramed : Obligations.StepKeepsWireFramed := by
  unfold Obligations.StepKeepsWireFramed
  intro s t hr hnoReset hw h
  rcases step_effect_of_low hr h with ⟨hreset, -⟩ | ⟨w, ws, -, -, -, rfl⟩ | ⟨hst, hcrc, -, -, -, -, hout⟩
  · exact absurd hreset hnoReset
  · exact afterCommand_wireFramed (hw.congr rfl rfl rfl)
  · exact hw.congr hst hcrc hout

/-- Settles O28: nothing has been sent, so there are no frames. -/
theorem resetIsWireFramed : Obligations.ResetIsWireFramed :=
  (wireFramed_iff_of_idle reset_st).mpr ⟨[], rfl⟩

end Sys2Proof.Machine
end

section
/-! PROOFS. Which steps write `st`, `crc`, `err` and `cause` (R11 to R14), and that the error flag changes no other rule
(R13). -/

namespace Sys2Proof.Machine

/-- Settles O22: of the three effects of a step, only the reset and a command write `st`. -/
theorem onlyStartEndAndResetWriteSt : Obligations.OnlyStartEndAndResetWriteSt := by
  unfold Obligations.OnlyStartEndAndResetWriteSt
  intro s t hr h hne
  rcases step_effect_of_low hr h with ⟨hreset, rfl⟩ | ⟨w, ws, hb, hc, -, rfl⟩ | ⟨hst, -⟩
  · exact .inl ⟨hreset, rfl⟩
  · exact .inr ⟨w, ws, hb, hc, by simp, afterCommand_st_changed hne⟩
  · exact absurd hst hne

/-- Settles O23: of the three effects of a step, only the reset and a command write `crc`. -/
theorem onlyStartDataAndResetWriteCrc : Obligations.OnlyStartDataAndResetWriteCrc := by
  unfold Obligations.OnlyStartDataAndResetWriteCrc
  intro s t hr h hne
  rcases step_effect_of_low hr h with ⟨hreset, rfl⟩ | ⟨w, ws, hb, hc, -, rfl⟩ | ⟨-, hcrc, -⟩
  · exact .inl ⟨hreset, rfl⟩
  · exact .inr ⟨w, ws, hb, hc, by simp, afterCommand_crc_changed hne⟩
  · exact absurd hcrc hne

/-- Settles O24: of the three effects of a step, only the reset and a command that raises the first error write `cause`. -/
theorem causeWrittenOnlyWithTheFirstError : Obligations.CauseWrittenOnlyWithTheFirstError := by
  unfold Obligations.CauseWrittenOnlyWithTheFirstError
  intro s t hr h hne
  rcases step_effect_of_low hr h with ⟨hreset, rfl⟩ | ⟨w, ws, hb, -, -, rfl⟩ | ⟨-, -, -, hcause, -⟩
  · exact .inl ⟨hreset, rfl⟩
  · exact .inr ⟨hb, afterCommand_cause_changed hne⟩
  · exact absurd hcause hne

/-- `rst` is low and the error with code `c` stands recorded. -/
def ErrorRecorded (c : BitVec 2) (s : State) : Prop := s.rst = false ∧ s.err = true ∧ s.cause = c

/-- A step that asserts no reset keeps a recorded error and its code (R13, R14). -/
theorem step_keeps_errorRecorded {c : BitVec 2} {s t : State} (he : ErrorRecorded c s)
    (hturn : (currentTurn s).assertsReset = false) (h : step s = .next t) : ErrorRecorded c t := by
  obtain ⟨hr, herr, hcause⟩ := he
  rcases step_effect_of_low hr h with ⟨hreset, -⟩ | ⟨w, ws, -, -, -, rfl⟩ | ⟨-, -, herr', hcause', hlow, -⟩
  · simp [hreset, Turn.assertsReset] at hturn
  · obtain ⟨herr', hcause'⟩ :=
      afterCommand_keeps_error (i := decode w) (s := consume ws (endTurn s)) (by simpa using herr)
    exact ⟨by simpa using hr, herr', hcause'.trans hcause⟩
  · exact ⟨hlow, herr'.trans herr, hcause'.trans hcause⟩

/-- Settles O10, by induction over the run. -/
theorem errorStaysUntilReset : Obligations.ErrorStaysUntilReset := by
  unfold Obligations.ErrorStaysUntilReset
  intro k s t hr hturns h herr
  exact (runSteps_induction_on_turns (P := ErrorRecorded s.cause) (A := fun u => u.assertsReset = false) rfl
    (fun _ _ => step_keeps_errorRecorded) k s t ⟨hr, herr, rfl⟩ hturns h).2

/-- Nor does what a sequence of commands does (R13). -/
theorem execAll_of_other_error (is : List Instr) (s : State) (e : Bool) (c : BitVec 2) :
    ∃ t e' c', execAll is s = .next t ∧
      execAll is { s with err := e, cause := c } = .next { t with err := e', cause := c' } := by
  induction is generalizing s e c with
  | nil => exact ⟨s, e, c, rfl, rfl⟩
  | cons i is ih =>
    obtain ⟨e₁, c₁, hi⟩ := afterCommand_of_other_error i s e c
    obtain ⟨t, e', c', ht, hu⟩ := ih (afterCommand i s) e₁ c₁
    exact ⟨t, e', c', by simpa [execAll, exec_eq_next] using ht, by simpa [execAll, exec_eq_next, hi] using hu⟩

/-- Settles O9: the two runs end in states that differ at most in `err` and `cause`, and acceptance reads neither. -/
theorem errorFlagChangesNoOtherRule : Obligations.ErrorFlagChangesNoOtherRule := by
  unfold Obligations.ErrorFlagChangesNoOtherRule
  intro is s e c
  obtain ⟨t, e', c', ht, hu⟩ := execAll_of_other_error is s e c
  exact ⟨t, _, ht, hu, rfl, rfl, rfl, fun _ _ => rfl⟩

end Sys2Proof.Machine
end

section
/-! PROOFS. A command appends exactly its need, and a run without reset does what its accepted commands do one after
another (spec/20_memory.md R23, R24; spec/41_commands.md R60, R67). -/

namespace Sys2Proof.Machine

/-! ### What one command appends -/

@[simp] theorem afterCommand_taken (i : Instr) (s : State) : (afterCommand i s).taken = s.taken :=
  (exec_frame (exec_eq_next i s)).2.2.1

@[simp] theorem afterCommand_agenda (i : Instr) (s : State) : (afterCommand i s).agenda = s.agenda :=
  (exec_frame (exec_eq_next i s)).2.2.2

/-- A command only appends: what is queued stays in front (R24). -/
theorem outq_isPrefix_afterCommand (i : Instr) (s : State) : s.outq <+: (afterCommand i s).outq := by
  rcases afterCommand_cases i s with ⟨-, ht⟩ | ⟨-, -, ht⟩ | ⟨b, -, -, ht⟩ | ⟨-, -, ht⟩ | ⟨-, e, ht⟩ <;> simp [ht]

/-- Settles O5: the queue keeps its old bytes in front and grows by the need, so the bytes behind them are that many. -/
theorem commandAppendsExactlyItsNeed : Obligations.CommandAppendsExactlyItsNeed := by
  unfold Obligations.CommandAppendsExactlyItsNeed
  intro i s
  obtain ⟨bs, hbs⟩ := outq_isPrefix_afterCommand i s
  have hlen : bs.length = need i s.st := by
    simpa [← hbs] using afterCommand_outq_length i s
  exact ⟨afterCommand i s, bs, exec_eq_next i s, hbs.symm, hlen, by simp⟩

/-! ### Commands do not see where the output stream is cut -/

/-- The state seen from the wire: the registers and the output stream, whatever part of it the sink has taken, without the
producer and the schedule (R67). -/
def streamView (s : State) : State := { s with outq := outputStream s, taken := [], cmdIn := [], agenda := [] }

/-- What the view shows. -/
theorem streamView_eq_iff {s t : State} :
    streamView s = streamView t ↔
      s.st = t.st ∧ s.crc = t.crc ∧ s.err = t.err ∧ s.cause = t.cause ∧ outputStream s = outputStream t ∧
        s.rst = t.rst := by
  simp [streamView, State.ext_iff]

/-- A command has on the view the effect it has on the state: it reads no byte that was sent (R24). -/
theorem afterCommand_streamView (i : Instr) (s : State) :
    afterCommand i (streamView s) = streamView (afterCommand i s) := by
  cases i <;> cases hs : s.st <;> ext1 <;> simp [afterCommand, hs, streamView]

/-- Running commands and looking at the wire may be done in either order. -/
theorem execAll_streamView {is : List Instr} {s t : State} (h : execAll is s = .next t) :
    execAll is (streamView s) = .next (streamView t) := by
  induction is generalizing s with
  | nil =>
    injection h with h
    rw [h]
    rfl
  | cons i is ih =>
    simp only [execAll, exec_eq_next, afterCommand_streamView] at h ⊢
    exact ih h

/-- A run of commands goes on where its first part ended. -/
theorem execAll_append_of_next {is js : List Instr} {s t : State} (h : execAll is s = .next t) :
    execAll (is ++ js) s = execAll js t := by
  rw [execAll_eq_next] at h
  injection h with h
  rw [execAll_append, h]

/-! ### The words offered to the block -/

/-- The words still offered: those waiting, then those the turns to come present (R60). -/
def offered (s : State) : List CmdWord := s.cmdIn ++ s.agenda.flatMap Turn.presents

/-- The current turn's words come right behind those waiting. -/
theorem offered_eq_currentTurn (s : State) :
    offered s = s.cmdIn ++ ((currentTurn s).presents ++ s.agenda.tail.flatMap Turn.presents) := by
  unfold offered currentTurn
  cases s.agenda with
  | nil => rfl
  | cons v vs => rw [List.flatMap_cons, List.tail_cons]

/-- A run of `k` steps uses up `k` turns of the agenda. -/
theorem runSteps_agenda {k : Nat} {s t : State} (h : runSteps k s = .next t) : t.agenda = s.agenda.drop k := by
  induction k generalizing s with
  | zero => simp [runSteps] at h; simp [h]
  | succ k ih =>
    obtain ⟨u, hu, hr⟩ := runSteps_succ h
    have hagenda : u.agenda = s.agenda.tail := stepWith_agenda hu
    rw [ih hr, hagenda, List.drop_tail]

/-! ### Runs without reset -/

/-- `t`, with `rst` low, is `s` once the words `done` have been accepted: they are the first of those `s` offers, and they
account for all that the registers and the output stream of `t` show. -/
structure AcceptedFrom (s : State) (done : List CmdWord) (t : State) : Prop where
  low : t.rst = false
  offers : offered s = done ++ offered t
  runs : execAll (done.map decode) (streamView s) = .next (streamView t)

/-- Nothing accepted yet. -/
theorem AcceptedFrom.refl {s : State} (h : s.rst = false) : AcceptedFrom s [] s := ⟨h, rfl, rfl⟩

/-- Acceptance goes on where it stood. -/
theorem AcceptedFrom.trans {s t u : State} {done more : List CmdWord} (hst : AcceptedFrom s done t)
    (htu : AcceptedFrom t more u) : AcceptedFrom s (done ++ more) u where
  low := htu.low
  offers := by rw [hst.offers, htu.offers, List.append_assoc]
  runs := by rw [List.map_append, execAll_append_of_next hst.runs, htu.runs]

/-- A step that changes neither the words offered nor the view accepts nothing. -/
theorem AcceptedFrom.of_unchanged {s t : State} (hlow : t.rst = false) (hoffers : offered s = offered t)
    (hview : streamView s = streamView t) : AcceptedFrom s [] t :=
  ⟨hlow, hoffers, congrArg Host.Outcome.next hview⟩

/-- A step that asserts no reset accepts some of the words offered: the one waiting at the head of the input, or none (R60). -/
theorem step_accepts {s t : State} (hr : s.rst = false) (hturn : (currentTurn s).assertsReset = false)
    (h : step s = .next t) : ∃ done, AcceptedFrom s done t := by
  have hoffered := offered_eq_currentTurn s
  rcases step_cases_of_low hr h with ⟨hc, rfl⟩ | ⟨w, ws, hc, hw, -, rfl⟩ | ⟨hc, rfl⟩ | ⟨b, q, hc, hq, rfl⟩ |
    ⟨w, hc, rfl⟩ | ⟨hc, -⟩ | ⟨hc, rfl⟩
  all_goals simp only [hc, Turn.presents, List.nil_append] at hoffered
  · exact ⟨[], .of_unchanged hr hoffered rfl⟩
  · refine ⟨[w], by simpa using hr, by rw [hoffered, hw]; simp [offered], ?_⟩
    refine execAll_streamView (s := consume ws (endTurn s)) ?_
    simp [execAll, exec_eq_next]
  · exact ⟨[], .of_unchanged hr hoffered rfl⟩
  · refine ⟨[], .of_unchanged hr hoffered ?_⟩
    rw [streamView_eq_iff, outputStream_deliver (s := endTurn s) hq]
    simp
  · exact ⟨[], .of_unchanged hr (by rw [hoffered]; simp [offered]) rfl⟩
  · simp [hc, Turn.assertsReset] at hturn
  · exact ⟨[], .of_unchanged hr hoffered rfl⟩

/-- A run that asserts no reset accepts some of the words offered, one after another in the order offered (R23). -/
theorem runSteps_accepts {k : Nat} {s t : State} (hr : s.rst = false)
    (hturns : ∀ u ∈ s.agenda.take k, u.assertsReset = false) (h : runSteps k s = .next t) :
    ∃ done, AcceptedFrom s done t := by
  refine runSteps_induction_on_turns (P := fun t => ∃ done, AcceptedFrom s done t)
    (A := fun u => u.assertsReset = false) rfl ?_ k s t ⟨[], .refl hr⟩ hturns h
  rintro t t' ⟨done, ht⟩ hturn hstep
  obtain ⟨more, ht'⟩ := step_accepts ht.low hturn hstep
  exact ⟨done ++ more, ht.trans ht'⟩

/-- Settles O30: the run ends in the view that the accepted words give, and the turns left over offer the same words before
and after. -/
theorem runRefinesCommandOrder : Obligations.RunRefinesCommandOrder := by
  unfold Obligations.RunRefinesCommandOrder
  intro k s t hr hturns h
  obtain ⟨done, hlow, hoffers, hruns⟩ := runSteps_accepts hr hturns h
  have hexec := execAll_eq_next (done.map decode) s
  have hview : streamView t = streamView ((done.map decode).foldl (fun u i => afterCommand i u) s) := by
    rw [execAll_streamView hexec] at hruns
    injection hruns with hruns
    exact hruns.symm
  obtain ⟨hst, hcrc, herr, hcause, hout, -⟩ := streamView_eq_iff.mp hview
  refine ⟨done, _, ?_, hexec, hst, hcrc, herr, hcause, hout, hlow⟩
  unfold offered at hoffers
  rw [runSteps_agenda h, ← List.take_append_drop k s.agenda, List.flatMap_append] at hoffers
  simpa only [← List.append_assoc, List.append_cancel_right_eq, List.take_append_drop] using hoffers

end Sys2Proof.Machine
end

section
/-! PROOFS. The decoder and the encoder on a word given by its two fields (spec/30_encoding.md R30 to R33). -/

namespace Sys2Proof

@[simp] theorem opField_append (op : BitVec 2) (d : Byte) : opField (op ++ d) = op := BitVec.extractLsb'_append_eq_left
@[simp] theorem dField_append (op : BitVec 2) (d : Byte) : dField (op ++ d) = d := BitVec.extractLsb'_append_eq_right

/-- A command word is its two fields and nothing else (R30). -/
theorem opField_append_dField (w : CmdWord) : opField w ++ dField w = w := BitVec.extractLsb'_append_extractLsb'

@[simp] theorem decode_op_nop (d : Byte) : decode (0b00#2 ++ d) = .nop := by simp [decode, opNop]
@[simp] theorem decode_op_start (d : Byte) : decode (0b01#2 ++ d) = .start := by simp [decode, opNop, opStart]
@[simp] theorem decode_op_data (d : Byte) : decode (0b10#2 ++ d) = .data d := by simp [decode, opNop, opStart, opData]
@[simp] theorem decode_op_end (d : Byte) : decode (0b11#2 ++ d) = .endFrame := by
  simp [decode, opNop, opStart, opData]

/-- The four rows of R31. -/
theorem op_cases (op : BitVec 2) : op = 0b00#2 ∨ op = 0b01#2 ∨ op = 0b10#2 ∨ op = 0b11#2 := by
  revert op
  decide

/-- DATA's canonical word is its operation code and its byte, side by side (R30, R32). -/
theorem encode_data (b : Byte) : encode (.data b) = 0b10#2 ++ b := BitVec.eq_of_toNat_eq rfl

/-- The canonical word of a decoded word keeps its `op`, and keeps `d` exactly for DATA (R33). -/
theorem encode_decode (w : CmdWord) : encode (decode w) = opField w ++ Laws.canonicalD (decode w) := by
  rw [← opField_append_dField w]
  generalize dField w = d
  rcases op_cases (opField w) with h | h | h | h <;> rw [h]
  · rw [decode_op_nop, opField_append]
    rfl
  · rw [decode_op_start, opField_append]
    rfl
  · rw [decode_op_data, opField_append]
    exact encode_data d
  · rw [decode_op_end, opField_append]
    rfl

/-- The mask of R31 keeps `op` and clears `d`. -/
theorem append_and_opMask (op : BitVec 2) (d : Byte) : (op ++ d) &&& 0x300#10 = op ++ 0#8 := by
  have hmask : 0x300#10 = BitVec.allOnes 2 ++ 0#8 := rfl
  rw [hmask, BitVec.and_append, BitVec.and_allOnes, BitVec.and_zero]

/-- Settles O46. -/
theorem decodeFollowsTheOpcodeMap : Obligations.DecodeFollowsTheOpcodeMap :=
  ⟨fun d => ⟨decode_op_nop d, decode_op_start d, decode_op_data d, decode_op_end d⟩,
    fun w => ⟨opField w, dField w, (opField_append_dField w).symm⟩, rfl, rfl, rfl⟩

theorem decode_encode (i : Instr) : decode (encode i) = i := by
  cases i with
  | data b => rw [encode_data, decode_op_data]
  | nop | start | endFrame => rfl

/-- Settles O47: a decoded word keeps `op`, and DATA keeps `d` too. -/
theorem decodeEncodeRoundTrip : Obligations.DecodeEncodeRoundTrip := by
  unfold Obligations.DecodeEncodeRoundTrip
  refine ⟨fun i _ => decode_encode i, fun w => ⟨?_, fun hdata => ?_⟩⟩
  · rw [encode_decode, append_and_opMask]
    conv_rhs => rw [← opField_append_dField w, append_and_opMask]
  · have hop : opField w = 0b10#2 := by
      rw [← opField_append_dField w, append_and_opMask] at hdata
      exact (opField_append _ _).symm.trans (congrArg opField hdata)
    rw [← opField_append_dField w, hop, decode_op_data, encode_data]

end Sys2Proof
end

section
/-! PROOFS. Listings (spec/30_encoding.md R35, R36): what a line expands to, and that the assembler reads a printed
command back. -/

namespace Sys2Proof.Machine

/-! ### The pseudo-instructions (R36) -/

@[simp] theorem dataOf_toNat (p : List Byte) : dataOf (p.map BitVec.toNat) = p.map .data := by
  simp [dataOf, Function.comp_def]

/-- Settles O50: the operands of a line are bytes, or characters with their codes. -/
theorem pseudoInstructionExpansions : Obligations.PseudoInstructionExpansions := by
  unfold Obligations.PseudoInstructionExpansions
  refine ⟨fun p => ?_, rfl, dataOf_toNat, fun cs _ => ⟨?_, rfl⟩⟩
  · rw [expand, dataOf_toNat]
  · rw [expand, dataOf, List.map_map]
    rfl

/-! ### A printed hex byte reads back (R35) -/

/-- A printed digit is read as its value. -/
theorem digitValue_hexDigit {n : Nat} (h : n < 16) : digitValue 16 (hexDigit n) = some n := by
  have hall : ∀ k : Fin 16, digitValue 16 (hexDigit k) = some k.val := by decide
  exact hall ⟨n, h⟩

/-- A printed digit is no mark in a listing: no blank, no quote, no start of a comment. -/
theorem hexDigit_not_mark {n : Nat} (h : n < 16) :
    isBlank (hexDigit n) = false ∧ hexDigit n ≠ '"' ∧ hexDigit n ≠ ';' := by
  have hall : ∀ k : Fin 16, isBlank (hexDigit k) = false ∧ hexDigit k ≠ '"' ∧ hexDigit k ≠ ';' := by decide
  exact hall ⟨n, h⟩

/-- The two printed digits of a byte are read as the byte. -/
theorem readNumber_hexByte (b : Byte) :
    readNumber ['0', 'x', hexDigit (b.toNat / 16), hexDigit (b.toNat % 16)] = some b.toNat := by
  have hb := b.isLt
  have hhigh := digitValue_hexDigit (n := b.toNat / 16) (by omega)
  have hlow := digitValue_hexDigit (n := b.toNat % 16) (by omega)
  simp only [readNumber, digitsValue, hhigh, hlow, Option.bind_some]
  congr 1
  omega

/-- A line whose characters are neither quotes nor semicolons has no comment. -/
theorem stripComment_of_no_mark {cs : List Char} (h : ∀ c ∈ cs, c ≠ '"' ∧ c ≠ ';') : stripComment false cs = cs := by
  induction cs with
  | nil => rfl
  | cons c cs ih =>
    obtain ⟨⟨hquote, hsemi⟩, htail⟩ := List.forall_mem_cons.mp h
    rw [stripComment, ih htail] <;> simp [hquote, hsemi]

theorem trim_cons_blank {c : Char} {cs : List Char} (h : isBlank c = true) : trim (c :: cs) = trim cs := by
  simp [trim, h]

theorem trim_of_ends_not_blank {c l : Char} {mid : List Char} (hc : isBlank c = false) (hl : isBlank l = false) :
    trim (c :: (mid ++ [l])) = c :: (mid ++ [l]) := by
  simp [trim, hc, hl]

/-! ### A printed command assembles to its canonical word (R35) -/

/-- The line that a printed command is read as. -/
def commandLine : Instr → Line
  | .nop => .nop
  | .start => .start
  | .data b => .data b.toNat
  | .endFrame => .endFrame

theorem commandLine_wf (i : Instr) : (commandLine i).wf = true := by
  cases i with
  | data b => exact decide_eq_true (Nat.le_of_lt_succ b.isLt)
  | nop | start | endFrame => rfl

theorem expand_commandLine (i : Instr) : expand (commandLine i) = [i] := by
  cases i with
  | data b => exact dataOf_toNat [b]
  | nop | start | endFrame => rfl

/-- DATA with two digits that are no marks: the operand is everything behind the blank. -/
theorem parseLine_data_hex {c d : Char} (hc : c ≠ '"' ∧ c ≠ ';') (hd : isBlank d = false ∧ d ≠ '"' ∧ d ≠ ';') :
    parseLine ['D', 'A', 'T', 'A', ' ', '0', 'x', c, d] = withOperand .data (readNumber ['0', 'x', c, d]) := by
  obtain ⟨hblank, hd⟩ := hd
  have hstrip : stripComment false ['D', 'A', 'T', 'A', ' ', '0', 'x', c, d] =
      ['D', 'A', 'T', 'A', ' ', '0', 'x', c, d] := stripComment_of_no_mark (by simp [hc, hd])
  have hbody : trim ['D', 'A', 'T', 'A', ' ', '0', 'x', c, d] = ['D', 'A', 'T', 'A', ' ', '0', 'x', c, d] :=
    trim_of_ends_not_blank (mid := ['A', 'T', 'A', ' ', '0', 'x', c]) rfl hblank
  have hargs : trim [' ', '0', 'x', c, d] = ['0', 'x', c, d] :=
    (trim_cons_blank rfl).trans (trim_of_ends_not_blank (mid := ['x', c]) rfl hblank)
  rw [parseLine, hstrip, hbody]
  exact congrArg (fun args => withOperand .data (readNumber args)) hargs

theorem parseLine_printInstr (i : Instr) : parseLine (printInstr i) = .ok (some (commandLine i)) := by
  cases i with
  | data b =>
    have hb := b.isLt
    obtain ⟨-, hhigh⟩ := hexDigit_not_mark (n := b.toNat / 16) (by omega)
    have hlow := hexDigit_not_mark (n := b.toNat % 16) (by omega)
    rw [printInstr, parseLine_data_hex hhigh hlow, readNumber_hexByte]
    rfl
  | nop | start | endFrame => rfl

theorem assembleLine_printInstr (i : Instr) : assembleLine (printInstr i) = .ok [encode i] := by
  simp [assembleLine, parseLine_printInstr, commandLine_wf, expand_commandLine]

theorem assemble_cons_of_ok {l : List Char} {ls : List (List Char)} {ws rest : List CmdWord}
    (hl : assembleLine l = .ok ws) (hls : assemble ls = .ok rest) : assemble (l :: ls) = .ok (ws ++ rest) := by
  simp [assemble, hl, hls]

/-- A listing of printed commands assembles to their canonical words. -/
theorem assemble_map_printInstr (is : List Instr) : assemble (is.map printInstr) = .ok (is.map encode) := by
  induction is with
  | nil => rfl
  | cons i is ih => exact assemble_cons_of_ok (assembleLine_printInstr i) ih

/-- Settles O49: a disassembled word is its decoded command, printed. -/
theorem assemblingTheDisassemblyGivesCanonicalWords : Obligations.AssemblingTheDisassemblyGivesCanonicalWords := by
  unfold Obligations.AssemblingTheDisassemblyGivesCanonicalWords
  intro ws
  have hprinted := assemble_map_printInstr (ws.map decode)
  rw [List.map_map, List.map_map] at hprinted
  exact hprinted

end Sys2Proof.Machine
end

section
/-! PROOFS. The reference CRC of R43 is the shift-right form of R45 on the mirrored register (spec/40_crc_frame.md R43 to
R46). -/

namespace Sys2Proof.Machine

theorem getLsbD_revBits {n : Nat} (v : BitVec n) (i : Nat) : (revBits v).getLsbD i = v.getMsbD i :=
  BitVec.getLsbD_reverse

theorem revBits_xor {n : Nat} (a b : BitVec n) : revBits (a ^^^ b) = revBits a ^^^ revBits b := by
  apply BitVec.eq_of_getLsbD_eq
  intro i _
  simp only [BitVec.getLsbD_xor, getLsbD_revBits, BitVec.getMsbD_xor]

/-- Mirrored, a shift left is a shift right. -/
theorem revBits_shiftLeft {n : Nat} (v : BitVec n) (k : Nat) : revBits (v <<< k) = revBits v >>> k := by
  apply BitVec.eq_of_getLsbD_eq
  intro i _
  rw [BitVec.getLsbD_ushiftRight, getLsbD_revBits, getLsbD_revBits, BitVec.getMsbD_shiftLeft, Nat.add_comm]

/-- The bit a round of R43 shifts out is the one a round of R45 shifts out of the mirrored register. -/
theorem getLsbD_zero_revBits (r : Crc) : (revBits r).getLsbD 0 = r.getLsbD 15 := by
  rw [getLsbD_revBits]
  rfl

/-- The constant of R44 is the generator polynomial of R42, mirrored. -/
theorem revBits_poly : revBits poly = polyR := by decide

theorem revBits_crcInit : revBits crcInit = crcInit := by decide

/-- The reflected byte in the high half is, mirrored, the byte itself in the low half: R45 needs no reflection. -/
theorem revBits_reflectedByte (b : Byte) : revBits ((revBits b).setWidth 16 <<< 8) = b.setWidth 16 := by
  apply BitVec.eq_of_getLsbD_eq
  intro i hi
  rw [getLsbD_revBits, BitVec.getMsbD_shiftLeft, BitVec.getMsbD_setWidth, revBits, BitVec.getMsbD_reverse]
  simp [hi]

/-- One round of R43 is one round of R45 on the mirrored register. -/
theorem revBits_modelBit (r : Crc) : revBits (modelBit r) = crcBit (revBits r) := by
  unfold modelBit crcBit
  rw [getLsbD_zero_revBits]
  split
  · rw [revBits_xor, revBits_shiftLeft, revBits_poly]
  · exact revBits_shiftLeft r 1

theorem revBits_iterTimes_modelBit (n : Nat) (r : Crc) :
    revBits (iterTimes modelBit n r) = iterTimes crcBit n (revBits r) := by
  induction n generalizing r with
  | zero => rfl
  | succ n ih => rw [iterTimes_succ, iterTimes_succ, ih, revBits_modelBit]

/-- One byte of R43 is one byte update of R45 on the mirrored register. -/
theorem revBits_modelByte (r : Crc) (b : Byte) : revBits (modelByte r b) = crcUpd (revBits r) b := by
  rw [modelByte, revBits_iterTimes_modelBit, revBits_xor, revBits_reflectedByte, crcUpd]

/-- Settles O36: the two registers mirror each other from the init value on, and R43 mirrors its remainder at the end. -/
theorem shiftRightFormEqualsReferenceModel : Obligations.ShiftRightFormEqualsReferenceModel := by
  unfold Obligations.ShiftRightFormEqualsReferenceModel
  intro p
  calc crc16Modbus p
    _ = p.foldl crcUpd (revBits crcInit) := by rw [crc16Modbus, revBits_crcInit]
    _ = revBits (p.foldl modelByte crcInit) := List.foldl_hom revBits fun r b => (revBits_modelByte r b).symm
    _ = crcModel p := BitVec.xor_zero.symm

/-- Settles O37: the constant is the mirrored polynomial, and its sixteen bits are read off. -/
theorem reflectedPolynomial : Obligations.ReflectedPolynomial := ⟨revBits_poly.symm, rfl, by decide⟩

end Sys2Proof.Machine
end

section
/-! PROOFS. The byte update cut at the register's halves (spec/40_crc_frame.md R45, R47, R48, R55, R56): the high byte moves
down, and the low byte with the input byte folded in decides what is XORed onto it. -/

namespace Sys2Proof.Machine

theorem crcBit_of_low_clear {c : Crc} (h : c.getLsbD 0 = false) : crcBit c = c >>> 1 := by
  rw [crcBit_eq, h]
  exact BitVec.xor_zero

/-- Rounds that shift only zeros out are a plain shift. -/
theorem iterTimes_crcBit_of_low_clear {n : Nat} {c : Crc} (h : ∀ i < n, c.getLsbD i = false) :
    iterTimes crcBit n c = c >>> n := by
  induction n generalizing c with
  | zero => simp
  | succ n ih =>
    have hshifted : ∀ i < n, (c >>> 1).getLsbD i = false := fun i hi => by
      simpa [Nat.add_comm] using h (i + 1) (by omega)
    rw [iterTimes_succ, crcBit_of_low_clear (h 0 (by omega)), ih hshifted, ← BitVec.shiftRight_add, Nat.add_comm]

/-- By linearity the register and the input byte go through the rounds apart. -/
theorem crcUpd_eq_xor (c : Crc) (b : Byte) : crcUpd c b = iterTimes crcBit 8 c ^^^ crcUpd 0x0000#16 b := by
  rw [crcUpd, iterTimes_crcBit_xor, crcUpd, BitVec.zero_xor]

theorem xor_byte_shiftRight_eight (c : Crc) (b : Byte) : (c ^^^ b.setWidth 16) >>> 8 = c >>> 8 := by
  ext i
  simp

/-- The rounds of a byte only shift the high half, and the low half meets the update like an input byte. -/
theorem iterTimes_crcBit_eight (x : Crc) : iterTimes crcBit 8 x = x >>> 8 ^^^ crcUpd 0x0000#16 (x.setWidth 8) := by
  have hlow : ∀ i < 8, (x ^^^ (x.setWidth 8).setWidth 16).getLsbD i = false := fun i hi => by
    simp [hi, show i < 16 by omega]
  calc iterTimes crcBit 8 x
    _ = crcUpd (x ^^^ (x.setWidth 8).setWidth 16) (x.setWidth 8) := by
      rw [crcUpd, BitVec.xor_assoc, BitVec.xor_self, BitVec.xor_zero]
    _ = iterTimes crcBit 8 (x ^^^ (x.setWidth 8).setWidth 16) ^^^ crcUpd 0x0000#16 (x.setWidth 8) := crcUpd_eq_xor ..
    _ = x >>> 8 ^^^ crcUpd 0x0000#16 (x.setWidth 8) := by
      rw [iterTimes_crcBit_of_low_clear hlow, xor_byte_shiftRight_eight]

/-- The 256 entries the spec prints, each checked against the byte update (R55). -/
theorem crcTableAt_eq_crcUpd : ∀ i : Byte, crcTableAt i = crcUpd 0x0000#16 i := by decide +kernel

/-- Masking to the low byte before cutting to it changes nothing. -/
theorem setWidth_and_lowMask (x : Crc) : (x &&& 0xFF#16).setWidth 8 = x.setWidth 8 := by
  rw [BitVec.setWidth_and]
  exact BitVec.and_allOnes

/-- Settles O39: the table holds what the low half comes to. -/
theorem tableFormEqualsByteUpdate : Obligations.TableFormEqualsByteUpdate := by
  unfold Obligations.TableFormEqualsByteUpdate
  refine ⟨crcTableAt_eq_crcUpd, fun c b => ?_⟩
  rw [setWidth_and_lowMask, crcTableAt_eq_crcUpd, crcUpd, iterTimes_crcBit_eight, xor_byte_shiftRight_eight]

/-- Settles O38: the loop of R46 unfolded at its last byte. -/
theorem checksumPrefixLaw : Obligations.ChecksumPrefixLaw := crc16Modbus_append_singleton

/-- Settles O40: two neighbouring slices are the register value again. -/
theorem checksumBytesBigEndian : Obligations.ChecksumBytesBigEndian :=
  ⟨fun _ => ⟨rfl, BitVec.extractLsb'_append_extractLsb'⟩, by decide⟩

theorem shiftRight_eight (c : Crc) : c >>> 8 = (c.extractLsb' 8 8).setWidth 16 := by
  ext i hi
  have hout : c.getLsbD (8 + i) = true → i < 8 := fun h => by
    have := BitVec.lt_of_getLsbD h
    omega
  simpa using hout

/-- The byte update in terms of the register's two bytes. -/
theorem crcUpd_eq_highByte_xor (c : Crc) (b : Byte) :
    crcUpd c b = (c.extractLsb' 8 8).setWidth 16 ^^^ crcUpd 0x0000#16 (c.extractLsb' 0 8 ^^^ b) := by
  rw [crcUpd, iterTimes_crcBit_eight, xor_byte_shiftRight_eight, shiftRight_eight, BitVec.setWidth_xor,
    BitVec.setWidth_setWidth_of_le b (by decide), BitVec.setWidth_eq b,
    BitVec.setWidth_eq_extractLsb' (x := c) (by decide)]

theorem highByte_crcUpd (c : Crc) (b : Byte) :
    (crcUpd c b).extractLsb' 8 8 = (crcUpd 0x0000#16 (c.extractLsb' 0 8 ^^^ b)).extractLsb' 8 8 := by
  have hclear : ((c.extractLsb' 8 8).setWidth 16).extractLsb' 8 8 = 0x00#8 := by
    ext i
    simp
  rw [crcUpd_eq_highByte_xor, BitVec.extractLsb'_xor, hclear, BitVec.zero_xor]

theorem lowByte_crcUpd (c : Crc) (b : Byte) : (crcUpd c b).extractLsb' 0 8 =
    c.extractLsb' 8 8 ^^^ (crcUpd 0x0000#16 (c.extractLsb' 0 8 ^^^ b)).extractLsb' 0 8 := by
  have hmoved : ((c.extractLsb' 8 8).setWidth 16).extractLsb' 0 8 = c.extractLsb' 8 8 := by
    rw [← BitVec.setWidth_eq_extractLsb' (by decide), BitVec.setWidth_setWidth_of_le _ (by decide), BitVec.setWidth_eq]
  rw [crcUpd_eq_highByte_xor, BitVec.extractLsb'_xor, hmoved]

theorem crcUpd_zero_zero : crcUpd 0x0000#16 0x00#8 = 0x0000#16 := rfl

/-- A byte equal to the register's low byte cancels it, so the high byte alone is left. -/
theorem crcUpd_lowByte (c : Crc) : crcUpd c (c.extractLsb' 0 8) = (c.extractLsb' 8 8).setWidth 16 := by
  rw [crcUpd_eq_highByte_xor, BitVec.xor_self, crcUpd_zero_zero, BitVec.xor_zero]

/-- A byte equal to the whole register clears it. -/
theorem crcUpd_setWidth_self (b : Byte) : crcUpd (b.setWidth 16) b = 0 := by
  rw [crcUpd, BitVec.xor_self]
  rfl

/-- Settles O43: the low byte leaves the high byte in the register, and the high byte clears it. -/
theorem residueOnlyForLowByteFirst : Obligations.ResidueOnlyForLowByteFirst := by
  unfold Obligations.ResidueOnlyForLowByteFirst
  refine ⟨fun p => ?_, by decide +kernel, by decide +kernel⟩
  have hbytes : p ++ (be16 (crc16Modbus p)).reverse =
      p ++ [(crc16Modbus p).extractLsb' 0 8] ++ [(crc16Modbus p).extractLsb' 8 8] := by
    simp [be16]
  rw [hbytes, crc16Modbus_append_singleton, crc16Modbus_append_singleton, crcUpd_lowByte, crcUpd_setWidth_self]

/-- Of the 256 table entries only the first two have bytes whose XOR is their index. -/
theorem index_of_entry_bytes_xor : ∀ i : Byte,
    (crcUpd 0x0000#16 i).extractLsb' 8 8 ^^^ (crcUpd 0x0000#16 i).extractLsb' 0 8 = i → i = 0x00#8 ∨ i = 0x01#8 := by
  decide +kernel

/-- Settles O45: a value that 0x00 keeps has the high byte of its low byte's table entry, and its low byte is the XOR of the
entry's two bytes. -/
theorem zeroByteKeepsExactlyTwoRegisterValues : Obligations.ZeroByteKeepsExactlyTwoRegisterValues := by
  unfold Obligations.ZeroByteKeepsExactlyTwoRegisterValues
  intro c
  constructor
  · intro h
    have hhigh := highByte_crcUpd c 0x00#8
    have hlow := lowByte_crcUpd c 0x00#8
    rw [h, BitVec.xor_zero] at hhigh hlow
    rw [hhigh] at hlow
    rw [← BitVec.extractLsb'_append_extractLsb' (w := 8) (len := 8) (x := c), hhigh]
    rcases index_of_entry_bytes_xor _ hlow.symm with hzero | hone
    · rw [hzero]; decide
    · rw [hone]; decide
  · rintro (rfl | rfl)
    · rfl
    · rfl

end Sys2Proof.Machine
end

section
/-! PROOFS. The frame of a payload, position by position (spec/40_crc_frame.md R49 to R51). -/

namespace Sys2Proof.Machine

theorem encodeFrame_length (p : List Byte) : (encodeFrame p).length = p.length + 6 := by
  simp only [encodeFrame, List.length_append, preamble_length, be16_length, postamble_length]
  omega

/-- Behind the preamble stand the payload and the closing bytes. -/
theorem encodeFrame_drop_preamble (p : List Byte) :
    (encodeFrame p).drop 2 = p ++ (be16 (crc16Modbus p) ++ postamble) := by
  simp [encodeFrame, preamble]

theorem encodeFrame_payload (p : List Byte) : ((encodeFrame p).drop 2).take p.length = p := by
  rw [encodeFrame_drop_preamble, List.take_left]

theorem encodeFrame_drop_payload (p : List Byte) :
    (encodeFrame p).drop (p.length + 2) = be16 (crc16Modbus p) ++ postamble := by
  rw [Nat.add_comm, ← List.drop_drop, encodeFrame_drop_preamble, List.drop_left]

theorem encodeFrame_drop_checksum (p : List Byte) : (encodeFrame p).drop (p.length + 4) = postamble := by
  rw [← List.drop_drop (i := 2) (j := p.length + 2), encodeFrame_drop_payload]
  rfl

/-- Settles O41: the frame is cut behind the preamble, the payload and the checksum. -/
theorem framePositions : Obligations.FramePositions := by
  unfold Obligations.FramePositions
  intro p
  have hchecksum : ((encodeFrame p).drop (p.length + 2)).take 2 = be16 (crc16Modbus p) := by
    rw [encodeFrame_drop_payload]
    rfl
  exact ⟨encodeFrame_length p, rfl, encodeFrame_payload p, hchecksum, encodeFrame_drop_checksum p⟩

/-- Settles O42: equal frames have payloads of equal length, which stand at the same place. -/
theorem frameDeterminesPayload : Obligations.FrameDeterminesPayload := by
  unfold Obligations.FrameDeterminesPayload
  intro p q h
  have hlen : p.length = q.length := by
    have hframes := congrArg List.length h
    rw [encodeFrame_length, encodeFrame_length] at hframes
    omega
  rw [← encodeFrame_payload p, ← encodeFrame_payload q, h, hlen]

end Sys2Proof.Machine
end

section
/-! PROOFS. The four commands, each in both sequencing states, with its words and its room (spec/41_commands.md R60 to
R64). -/

namespace Sys2Proof.Machine

theorem exec_of_afterCommand {i : Instr} {s t : State} (h : afterCommand i s = t) : exec i s = .next t :=
  (exec_eq_next i s).trans (congrArg _ h)

/-- A command that is illegal in `st` appends nothing and only raises an error (R60, R70, R71). -/
theorem afterCommand_of_illegal {i : Instr} {s : State} (h : legalIn i s.st = false) :
    need i s.st = 0 ∧ ∃ e, afterCommand i s = raiseSeqError e s := by
  rcases afterCommand_cases i s with ⟨rfl, -⟩ | ⟨rfl, hs, -⟩ | ⟨b, rfl, hs, -⟩ | ⟨rfl, hs, -⟩ | herror
  · simp [legalIn] at h
  · simp [legalIn, hs] at h
  · simp [legalIn, hs] at h
  · simp [legalIn, hs] at h
  · exact herror

/-- A command that appends nothing has room in every queue (R60). -/
theorem acceptEnabled_of_need_zero {i : Instr} {s : State} (cap : Nat) (hlow : s.rst = false) (hn : need i s.st = 0) :
    acceptEnabled cap i s = true :=
  acceptEnabled_iff.mpr ⟨hlow, hn ▸ Nat.zero_le _⟩

/-- An empty queue has room for every command, since none needs more than four places (R4, D5). -/
theorem acceptEnabled_of_empty_queue {s : State} (i : Instr) (hlow : s.rst = false) (hq : s.outq = []) :
    acceptEnabled Config.outqCap i s = true := by
  refine acceptEnabled_iff.mpr ⟨hlow, ?_⟩
  rw [hq]
  exact (need_le_four i s.st).trans four_le_outqCap

/-- In IDLE only START changes `crc` or `st` (R64). -/
theorem afterCommand_idle_keeps {i : Instr} {s : State} (hs : s.st = .idle) (hi : i ≠ .start) :
    (afterCommand i s).crc = s.crc ∧ (afterCommand i s).st = .idle := by
  constructor
  · by_contra hne
    rcases afterCommand_crc_changed hne with ⟨rfl, -⟩ | ⟨b, -, hframe, -⟩
    · exact hi rfl
    · simp [hs] at hframe
  · by_contra hne
    rcases afterCommand_st_changed (hs ▸ hne) with ⟨rfl, -⟩ | ⟨-, hframe, -⟩
    · exact hi rfl
    · simp [hs] at hframe

/-- Settles O1. -/
theorem nopChangesNothing : Obligations.NopChangesNothing :=
  ⟨fun _ => rfl, decode_op_nop, rfl, fun cap _ => ⟨rfl, fun hlow => acceptEnabled_of_need_zero cap hlow rfl⟩⟩

/-- Settles O2. -/
theorem startOpensFrameOrRecordsError : Obligations.StartOpensFrameOrRecordsError :=
  ⟨fun _ h => exec_of_afterCommand (afterCommand_start_idle h),
    fun _ h => exec_of_afterCommand (afterCommand_start_frame h), decode_op_start, rfl, rfl, rfl⟩

/-- Settles O3. -/
theorem dataEmitsAndFoldsOrRecordsError : Obligations.DataEmitsAndFoldsOrRecordsError :=
  ⟨fun b _ h => exec_of_afterCommand (afterCommand_data_frame b h),
    fun b _ h => exec_of_afterCommand (afterCommand_data_idle b h),
    fun b => ⟨decode_op_data b, rfl⟩, fun _ => ⟨rfl, rfl⟩⟩

/-- Settles O4. -/
theorem endClosesFrameOrRecordsError : Obligations.EndClosesFrameOrRecordsError := by
  unfold Obligations.EndClosesFrameOrRecordsError
  refine ⟨fun s h => exec_of_afterCommand (afterCommand_endFrame_frame h),
    fun s h => exec_of_afterCommand (afterCommand_endFrame_idle h), fun i s t hs hi h => ?_,
    decode_op_end, rfl, rfl, rfl, fun s => acceptEnabled_of_empty_queue .endFrame⟩
  rw [exec_eq_next] at h
  injection h with h
  rw [← h]
  exact afterCommand_idle_keeps hs hi

/-- Settles O12: neither kind of command appends anything. -/
theorem errorsAndNopNeedNoRoom : Obligations.ErrorsAndNopNeedNoRoom := by
  unfold Obligations.ErrorsAndNopNeedNoRoom
  intro cap i s hlow hi
  have hneed : need i s.st = 0 := by
    rcases hi with hillegal | rfl
    · exact (afterCommand_of_illegal hillegal).1
    · rfl
  exact ⟨hneed, acceptEnabled_of_need_zero cap hlow hneed⟩

end Sys2Proof.Machine
end

section
/-! PROOFS. The turns of the block, the sink and the producer with `rst` low (spec/41_commands.md R60, R67; D2, D4). -/

namespace Sys2Proof.Machine

/-- With a word on the input, ready is high exactly when its command has room (D2). -/
theorem cmdReady_cons {cap : Nat} {s : State} {w : CmdWord} {ws : List CmdWord} (hc : s.cmdIn = w :: ws) :
    cmdReady cap s = acceptEnabled cap (decode w) s := by
  simp [cmdReady, hc]

theorem step_of_block {s : State} (hturn : currentTurn s = .block) (hlow : s.rst = false) :
    step s = blockTurn Config.outqCap (endTurn s) := by
  rw [step_of_low hlow, hturn, takeTurn]

theorem step_of_sink {s : State} (hturn : currentTurn s = .sink) (hlow : s.rst = false) :
    step s = .next (sinkTake (endTurn s)) := by
  rw [step_of_low hlow, hturn, takeTurn]

/-- The block's turn runs the command that has room (R60). -/
theorem step_of_accepted {s : State} {w : CmdWord} {ws : List CmdWord} (hturn : currentTurn s = .block)
    (hc : s.cmdIn = w :: ws) (ha : acceptEnabled Config.outqCap (decode w) s = true) :
    step s = exec (decode w) (consume ws (endTurn s)) := by
  rw [step_of_block hturn (acceptEnabled_iff.mp ha).1]
  exact blockTurn_accept hc ha

/-- The sink's turn takes the head byte (R67). -/
theorem step_of_sink_cons {s : State} {b : Byte} {q : List Byte} (hturn : currentTurn s = .sink) (hlow : s.rst = false)
    (hq : s.outq = b :: q) : step s = .next (deliver b q (endTurn s)) := by
  rw [step_of_sink hturn hlow]
  simp [sinkTake, hlow, hq]

/-- Settles O11: ready and the block's turn follow the same condition. -/
theorem stepRunsTheDecodedCommand : Obligations.StepRunsTheDecodedCommand := by
  unfold Obligations.StepRunsTheDecodedCommand
  rintro s w ws _ hturn hlow hc rfl
  constructor
  · intro hroom
    have ha := acceptEnabled_iff.mpr ⟨hlow, hroom⟩
    exact ⟨(cmdReady_cons hc).trans ha, step_of_accepted hturn hc ha⟩
  · intro hfull
    have ha : acceptEnabled Config.outqCap (decode w) s = false :=
      Bool.eq_false_iff.mpr fun h => absurd (acceptEnabled_iff.mp h).2 (Nat.not_le_of_lt hfull)
    exact ⟨(cmdReady_cons hc).trans ha, (step_of_block hturn hlow).trans (blockTurn_wait hc ha)⟩

/-- Settles O13: the sink's turn moves the head byte or does nothing, so of the effects of a step it is the one that leaves
registers and stream alone. -/
theorem sinkTakesTheHeadByte : Obligations.SinkTakesTheHeadByte := by
  unfold Obligations.SinkTakesTheHeadByte
  intro s hturn hlow
  refine ⟨fun b q hq => ⟨by simp [outValid, hlow, hq], by simp [outData, hlow, hq], step_of_sink_cons hturn hlow hq⟩,
    fun hq => ⟨by simp [outValid, hq], ?_⟩, fun t h => ?_⟩
  · rw [step_of_sink hturn hlow]
    simp [sinkTake, hq, endTurn]
  · rcases step_effect_of_low hlow h with ⟨hreset, -⟩ | ⟨w, ws, hblock, -⟩ | ⟨hst, hcrc, herr, hcause, -, -, hout⟩
    · simp [hturn] at hreset
    · simp [hturn] at hblock
    · simp [hout, crcO, busyO, errO, causeO, hst, hcrc, herr, hcause]

/-- Settles O14. -/
theorem producerTurnOnlyQueuesItsWord : Obligations.ProducerTurnOnlyQueuesItsWord := by
  unfold Obligations.ProducerTurnOnlyQueuesItsWord
  intro s w hturn hlow
  rw [step_of_low hlow, hturn]
  rfl

/-- A sink turn per queued byte empties the queue onto the wire (R67). -/
theorem runSteps_drains {k : Nat} {s : State} {ts : List Turn} (hlow : s.rst = false)
    (hagenda : s.agenda = List.replicate s.outq.length .sink ++ ts) :
    runSteps (s.outq.length + k) s =
      runSteps k { s with outq := [], taken := s.taken ++ s.outq, agenda := ts } := by
  induction hq : s.outq generalizing s with
  | nil =>
    have hs : s = { s with outq := [], taken := s.taken ++ [], agenda := ts } := by
      ext1 <;> simp [hq, hagenda]
    rw [List.length_nil, Nat.zero_add, ← hs]
  | cons b q ih =>
    have hturns : s.agenda = .sink :: (List.replicate q.length .sink ++ ts) := by
      simp [hagenda, hq, List.replicate_succ]
    have hstep := step_of_sink_cons (s := s) (by simp [currentTurn, hturns]) hlow hq
    have hrest := ih (s := deliver b q (endTurn s)) hlow (by simp [hturns]) rfl
    rw [List.length_cons, Nat.add_right_comm, runSteps, hstep]
    simpa [deliver, endTurn] using hrest

theorem runSteps_one (s : State) : runSteps 1 s = step s := by
  rw [runSteps]
  cases step s <;> rfl

/-- Settles O17: the drained queue has room for any command. -/
theorem drainedQueueAcceptsTheWaitingCommand : Obligations.DrainedQueueAcceptsTheWaitingCommand := by
  unfold Obligations.DrainedQueueAcceptsTheWaitingCommand
  intro s w ws ts hlow hc hagenda
  rw [runSteps_drains hlow hagenda, runSteps_one]
  exact step_of_accepted rfl hc (acceptEnabled_of_empty_queue (decode w) hlow rfl)

end Sys2Proof.Machine
end

section
/-! PROOFS. Laws of command sequences (spec/41_commands.md R65 to R69): what NOPs, payload bytes, closed frames and erroring
commands come to. -/

namespace Sys2Proof.Machine

theorem execAll_cons (i : Instr) (is : List Instr) (s : State) :
    execAll (i :: is) s = execAll is (afterCommand i s) := by
  rw [execAll, exec_eq_next]

/-! ### NOPs and the streaming law (R65, R68) -/

/-- Settles O33: a NOP leads to the state it found. -/
theorem nopTransparency : Obligations.NopTransparency := by
  unfold Obligations.NopTransparency
  intro is
  induction is with
  | nil => exact fun _ => rfl
  | cons i is ih =>
    intro s
    by_cases hi : i = .nop
    · simp [hi, execAll_cons, ih s]
    · simp [hi, execAll_cons, ih (afterCommand i s)]

/-- In FRAME the payload goes out as it is and folds into the checksum (R63). -/
theorem execAll_data {s : State} (p : List Byte) (hs : s.st = .frame) :
    execAll (p.map .data) s = .next (setCrc (p.foldl crcUpd s.crc) (emit p s)) := by
  induction p generalizing s with
  | nil =>
    refine congrArg Host.Outcome.next ?_
    ext1 <;> simp
  | cons b p ih =>
    rw [List.map_cons, execAll_cons, afterCommand_data_frame b hs, ih (by simpa using hs)]
    refine congrArg Host.Outcome.next ?_
    ext1 <;> simp

/-- From IDLE the commands of `FRAME p` send its frame and leave its checksum in `crc` (R65). -/
theorem execAll_frameCommands {s : State} (p : List Byte) (hs : s.st = .idle) :
    execAll (frameCommands p) s = .next (setCrc (crc16Modbus p) (emit (encodeFrame p) s)) := by
  have hopen : (setSt .frame (emit preamble (setCrc crcInit s))).st = .frame := setSt_st ..
  rw [frameCommands, List.cons_append, execAll_cons, afterCommand_start_idle hs,
    execAll_append_of_next (execAll_data p hopen), execAll_cons, afterCommand_endFrame_frame (by simp), execAll]
  refine congrArg Host.Outcome.next ?_
  ext1 <;> simp [hs, crc16Modbus, encodeFrame]

/-- Settles O29: without its NOPs (O33) the sequence is `FRAME p`. -/
theorem streamingLaw : Obligations.StreamingLaw := by
  unfold Obligations.StreamingLaw
  intro p is s hs his
  rw [nopTransparency, his, execAll_frameCommands p hs]
  refine congrArg Host.Outcome.next ?_
  ext1 <;> simp [hs]

/-- Settles O31: when nothing waits any more, the commands the run has accepted (O30) are those that waited at its start, and
the streaming law (O29) says what they send. -/
theorem streamingLawUnderEverySchedule : Obligations.StreamingLawUnderEverySchedule := by
  unfold Obligations.StreamingLawUnderEverySchedule
  intro p k s t hlow hs hturns hwords h hdone
  obtain ⟨done, u, hoffered, hexec, hst, hcrc, herr, hcause, hout, -⟩ :=
    runRefinesCommandOrder k s t hlow (fun v hv => (hturns v hv).1) h
  have hnone : (s.agenda.take k).flatMap Turn.presents = [] :=
    List.flatMap_eq_nil_iff.mpr fun v hv => (hturns v hv).2
  rw [hnone, hdone, List.append_nil, List.append_nil] at hoffered
  rw [← hoffered, streamingLaw p _ s hs hwords] at hexec
  injection hexec with hexec
  subst hexec
  exact ⟨hout.trans (by simp [outputStream]), hst, hcrc, herr, hcause⟩

/-! ### The running checksum (R66) -/

/-- In FRAME any commands but END keep the frame open and fold their payload bytes into the checksum. -/
theorem execAll_of_no_end {is : List Instr} {s : State} (hs : s.st = .frame) (his : .endFrame ∉ is) :
    ∃ t, execAll is s = .next t ∧ t.st = .frame ∧ t.crc = (payloadOf is).foldl crcUpd s.crc := by
  induction is generalizing s with
  | nil => exact ⟨s, rfl, hs, rfl⟩
  | cons i is ih =>
    rw [List.mem_cons, not_or] at his
    obtain ⟨hi, his⟩ := his
    rw [execAll_cons]
    cases i with
    | nop => exact ih hs his
    | start =>
      rw [afterCommand_start_frame hs]
      exact ih hs his
    | data b =>
      rw [afterCommand_data_frame b hs]
      exact ih hs his
    | endFrame => exact absurd rfl hi

/-- In IDLE any commands but START keep the block idle and the checksum as it was. -/
theorem execAll_of_no_start {is : List Instr} {s : State} (hs : s.st = .idle) (his : .start ∉ is) :
    ∃ t, execAll is s = .next t ∧ t.st = .idle ∧ t.crc = s.crc := by
  induction is generalizing s with
  | nil => exact ⟨s, rfl, hs, rfl⟩
  | cons i is ih =>
    rw [List.mem_cons, not_or] at his
    obtain ⟨hi, his⟩ := his
    obtain ⟨hcrc, hst⟩ := afterCommand_idle_keeps hs (Ne.symm hi)
    rw [execAll_cons, ← hcrc]
    exact ih hst his

/-- Between START and END, `crc` is the checksum of the payload so far. -/
theorem execAll_start_of_no_end {is : List Instr} {s : State} (hs : s.st = .idle) (his : .endFrame ∉ is) :
    ∃ t, execAll (.start :: is) s = .next t ∧ t.st = .frame ∧ t.crc = crc16Modbus (payloadOf is) := by
  rw [execAll_cons, afterCommand_start_idle hs]
  exact execAll_of_no_end rfl his

/-- Settles O32: the frame's commands fold its payload, END keeps `crc`, and in IDLE only START would change it. -/
theorem runningChecksum : Obligations.RunningChecksum := by
  unfold Obligations.RunningChecksum
  refine ⟨fun is s => execAll_start_of_no_end, fun is js s hs his hjs => ?_, fun is his => ?_⟩
  · obtain ⟨t, ht, hst, hcrc⟩ := execAll_start_of_no_end hs his
    rw [execAll_append_of_next ht, execAll_cons, afterCommand_endFrame_frame hst]
    obtain ⟨u, hu, hust, hucrc⟩ := execAll_of_no_start (setSt_st .idle _) hjs
    exact ⟨u, hu, hust, hucrc.trans hcrc⟩
  · obtain ⟨t, ht, -, hcrc⟩ := execAll_of_no_start reset_st his
    exact ⟨t, ht, hcrc⟩

/-! ### Erroring commands (R69) -/

/-- A legal command neither reads nor writes `err` and `cause` (R13). -/
theorem afterCommand_of_legal {i : Instr} {s : State} (e : Bool) (c : BitVec 2) (h : legalIn i s.st = true) :
    afterCommand i { s with err := e, cause := c } = { afterCommand i s with err := e, cause := c } := by
  obtain ⟨st, _, _, _, _, _, _, _, _⟩ := s
  cases i with
  | nop => rfl
  | start =>
    cases st with
    | idle => rfl
    | frame => simp [legalIn] at h
  | data b | endFrame =>
    cases st with
    | idle => simp [legalIn] at h
    | frame => rfl

theorem afterCommand_keeps_err_cause_of_legal {i : Instr} {s : State} (h : legalIn i s.st = true) :
    (afterCommand i s).err = s.err ∧ (afterCommand i s).cause = s.cause := by
  have hkeep := afterCommand_of_legal s.err s.cause h
  exact ⟨(congrArg State.err hkeep :), (congrArg State.cause hkeep :)⟩

/-- The sequencing state follows the commands, legal or not (R11). -/
theorem afterCommand_st (i : Instr) (s : State) : (afterCommand i s).st = seqAfter i s.st := by
  cases i <;> cases hs : s.st <;> simp [seqAfter, hs]

theorem dropErrors_cons_of_legal {i : Instr} {v : SeqState} (is : List Instr) (h : legalIn i v = true) :
    dropErrors v (i :: is) = i :: dropErrors (seqAfter i v) is := by
  simp [dropErrors, h]

theorem dropErrors_cons_of_illegal {i : Instr} {v : SeqState} (is : List Instr) (h : legalIn i v = false) :
    dropErrors v (i :: is) = dropErrors v is := by
  simp [dropErrors, h]

theorem dropErrors_sublist (v : SeqState) (is : List Instr) : (dropErrors v is).Sublist is := by
  induction is generalizing v with
  | nil => exact .slnil
  | cons i is ih =>
    cases h : legalIn i v with
    | true => exact dropErrors_cons_of_legal is h ▸ (ih _).cons_cons i
    | false => exact dropErrors_cons_of_illegal is h ▸ (ih v).cons i

/-- The commands with their erroring ones, run from any `err` and `cause`, end where the commands without them end, but for
`err` and `cause`: the legal ones keep these two, and `err` is set by the first one deleted. -/
theorem execAll_dropErrors (is : List Instr) (s : State) (e : Bool) (c : BitVec 2) :
    ∃ u e' c', execAll (dropErrors s.st is) s = .next u ∧ u.err = s.err ∧ u.cause = s.cause ∧
      execAll is { s with err := e, cause := c } = .next { u with err := e', cause := c' } ∧
      (e' = true ↔ e = true ∨ dropErrors s.st is ≠ is) := by
  induction is generalizing s e c with
  | nil => exact ⟨s, e, c, rfl, rfl, rfl, rfl, by simp [dropErrors]⟩
  | cons i is ih =>
    cases hi : legalIn i s.st with
    | true =>
      obtain ⟨hkeepErr, hkeepCause⟩ := afterCommand_keeps_err_cause_of_legal hi
      obtain ⟨u, e', c', hu, herr, hcause, ht, he'⟩ := ih (afterCommand i s) e c
      rw [afterCommand_st] at hu he'
      refine ⟨u, e', c', ?_, herr.trans hkeepErr, hcause.trans hkeepCause, ?_, ?_⟩
      · rw [dropErrors_cons_of_legal is hi, execAll_cons, hu]
      · rw [execAll_cons, afterCommand_of_legal e c hi, ht]
      · simpa [dropErrors_cons_of_legal is hi] using he'
    | false =>
      obtain ⟨-, x, hx⟩ := afterCommand_of_illegal (s := { s with err := e, cause := c }) hi
      obtain ⟨u, e', c', hu, herr, hcause, ht, he'⟩ := ih s true (causeAfter e c x)
      have hdeleted : dropErrors s.st is ≠ i :: is := fun heq =>
        absurd (heq ▸ (dropErrors_sublist s.st is).length_le) (by simp)
      rw [dropErrors_cons_of_illegal is hi]
      refine ⟨u, e', c', hu, herr, hcause, ?_, by simp [he', hdeleted]⟩
      rw [execAll_cons, hx]
      exact ht

/-- Settles O34: the two runs end in states that differ at most in `err` and `cause`. -/
theorem errorTransparency : Obligations.ErrorTransparency := by
  unfold Obligations.ErrorTransparency
  intro is s
  obtain ⟨u, e', c', hu, herr, hcause, ht, he'⟩ := execAll_dropErrors is s s.err s.cause
  exact ⟨_, u, ht, hu, rfl, rfl, rfl, herr, hcause, he'⟩

end Sys2Proof.Machine
end

section
/-! PROOFS. Sequencing errors and their effects, the order of the block and the sink, and instances
(spec/60_exceptions.md R70 to R72, R75, R78). -/

namespace Sys2Proof.Machine

/-! ### Sequencing errors (R70, R71, R75) -/

theorem afterCommand_of_exec {i : Instr} {s t : State} (h : exec i s = .next t) : afterCommand i s = t := by
  rw [exec_eq_next] at h
  injection h

/-- The commands illegal in a sequencing state are the three of R70's table. -/
theorem illegal_cases {i : Instr} {v : SeqState} (h : legalIn i v = false) :
    (∃ b, i = .data b ∧ v = .idle) ∨ (i = .endFrame ∧ v = .idle) ∨ (i = .start ∧ v = .frame) := by
  cases i with
  | nop => simp [legalIn] at h
  | start => cases v <;> simp [legalIn] at h ⊢
  | data b => cases v <;> simp [legalIn] at h ⊢
  | endFrame => cases v <;> simp [legalIn] at h ⊢

/-- The first error since reset records its code (R71). -/
theorem raiseSeqError_of_err_clear {s : State} (e : SeqError) (h : s.err = false) :
    raiseSeqError e s = { s with err := true, cause := e.code } := by
  simp [raiseSeqError, causeAfter, h]

/-- A later error finds nothing to record (R75). -/
theorem raiseSeqError_of_err_set {s : State} (e : SeqError) (h : s.err = true) : raiseSeqError e s = s := by
  ext1 <;> simp [causeAfter, h]

/-- Settles O6: a command is illegal, so one of the table's three, or legal, and then it keeps `err` and `cause`. -/
theorem sequencingErrorsAreTheThreeOfTheTable : Obligations.SequencingErrorsAreTheThreeOfTheTable := by
  unfold Obligations.SequencingErrorsAreTheThreeOfTheTable
  have hdata (s : State) (hs : s.st = .idle) (he : s.err = false) (b : Byte) :
      afterCommand (.data b) s = { s with err := true, cause := 1#2 } :=
    (afterCommand_data_idle b hs).trans (raiseSeqError_of_err_clear _ he)
  have hend (s : State) (hs : s.st = .idle) (he : s.err = false) :
      afterCommand .endFrame s = { s with err := true, cause := 2#2 } :=
    (afterCommand_endFrame_idle hs).trans (raiseSeqError_of_err_clear _ he)
  have hstart (s : State) (hs : s.st = .frame) (he : s.err = false) :
      afterCommand .start s = { s with err := true, cause := 3#2 } :=
    (afterCommand_start_frame hs).trans (raiseSeqError_of_err_clear _ he)
  refine ⟨fun i s t he hc h => ?_, fun s hs he => ⟨fun b => exec_of_afterCommand (hdata s hs he b),
    exec_of_afterCommand (hend s hs he)⟩, fun s hs he => exec_of_afterCommand (hstart s hs he)⟩
  obtain rfl := afterCommand_of_exec h
  cases hi : legalIn i s.st with
  | true =>
    obtain ⟨hkeepErr, hkeepCause⟩ := afterCommand_keeps_err_cause_of_legal hi
    exact .inr (.inr (.inr ⟨rfl, hkeepErr.trans he, hkeepCause.trans hc⟩))
  | false =>
    rcases illegal_cases hi with ⟨b, rfl, hs⟩ | ⟨rfl, hs⟩ | ⟨rfl, hs⟩
    · exact .inl ⟨⟨b, rfl⟩, hs, hdata s hs he b⟩
    · exact .inr (.inl ⟨rfl, hs, hend s hs he⟩)
    · exact .inr (.inr (.inl ⟨rfl, hs, hstart s hs he⟩))

/-- Settles O8: the command raises an error that is not the first. -/
theorem laterErrorChangesNothing : Obligations.LaterErrorChangesNothing := by
  unfold Obligations.LaterErrorChangesNothing
  intro i s hi he
  obtain ⟨-, e, ht⟩ := afterCommand_of_illegal hi
  exact exec_of_afterCommand (ht.trans (raiseSeqError_of_err_set e he))

/-- The block's turn always answers a next state. -/
theorem blockTurn_completes (cap : Nat) (s : State) : ∃ t, blockTurn cap s = .next t := by
  cases hc : s.cmdIn with
  | nil => exact ⟨s, blockTurn_idle hc⟩
  | cons w ws =>
    cases ha : acceptEnabled cap (decode w) s with
    | true => exact ⟨_, (blockTurn_accept hc ha).trans (exec_eq_next _ _)⟩
    | false => exact ⟨s, blockTurn_wait hc ha⟩

/-- Every step answers a next state: nothing stops the block (R71). -/
theorem stepWith_completes (cap : Nat) (s : State) : ∃ t, stepWith cap s = .next t := by
  unfold stepWith
  cases currentTurn s with
  | block => exact blockTurn_completes cap _
  | sink => exact ⟨_, rfl⟩
  | present w => exact ⟨_, rfl⟩
  | reset level => exact ⟨_, rfl⟩

/-- Settles O7: each illegal command raises its own error; what a command does to the rest does not depend on `err` and
`cause`, and a set `err` is kept with its cause. -/
theorem erroringCommandOnlyRecords : Obligations.ErroringCommandOnlyRecords := by
  unfold Obligations.ErroringCommandOnlyRecords
  refine ⟨fun i s hi => ?_, fun i s c => ?_, stepWith_completes Config.outqCap⟩
  · rcases illegal_cases hi with ⟨b, rfl, hs⟩ | ⟨rfl, hs⟩ | ⟨rfl, hs⟩
    · exact exec_of_afterCommand (afterCommand_data_idle b hs)
    · exact exec_of_afterCommand (afterCommand_endFrame_idle hs)
    · exact exec_of_afterCommand (afterCommand_start_frame hs)
  · obtain ⟨e', c', hu⟩ := afterCommand_of_other_error i s true c
    obtain ⟨herr, hcause⟩ := afterCommand_keeps_error (i := i) (s := { s with err := true, cause := c }) rfl
    exact ⟨_, _, exec_eq_next i s, exec_eq_next i _, by rw [hu], by rw [hu], by rw [hu], herr, hcause⟩

/-! ### The block and the sink in either order (R72) -/

/-- A command appends behind the bytes already queued and leaves the sink's part alone, so it does the same before and after
the sink's turn. -/
theorem afterCommand_deliver_endTurn (i : Instr) {s : State} {b : Byte} {q : List Byte} (hq : s.outq = b :: q) :
    ∃ q', (afterCommand i s).outq = b :: q' ∧
      afterCommand i (deliver b q (endTurn s)) = deliver b q' (endTurn (afterCommand i s)) := by
  obtain ⟨st, _, _, _, _, _, _, _, _⟩ := s
  subst hq
  cases i <;> cases st <;> exact ⟨_, rfl, rfl⟩

/-- A command that has room keeps it when the sink takes a byte (R60, R67). -/
theorem acceptEnabled_deliver {cap : Nat} {i : Instr} {s : State} {b : Byte} {q : List Byte} (hq : s.outq = b :: q)
    (ha : acceptEnabled cap i s = true) : acceptEnabled cap i (deliver b q s) = true := by
  obtain ⟨hlow, hroom⟩ := acceptEnabled_iff.mp ha
  rw [hq, List.length_cons] at hroom
  exact acceptEnabled_iff.mpr ⟨hlow, by rw [deliver_st, deliver_outq]; omega⟩

theorem runSteps_two_of_step {s u : State} (h : step s = .next u) : runSteps 2 s = step u := by
  rw [runSteps, h]
  exact runSteps_one u

/-- Settles O15: the command finds the head byte queued or gone and in both cases appends the same bytes behind the rest. -/
theorem commandAndSinkTakeCommute : Obligations.CommandAndSinkTakeCommute := by
  unfold Obligations.CommandAndSinkTakeCommute
  intro s w ws b q ts hc hq ha
  have hlow : s.rst = false := (acceptEnabled_iff.mp ha).1
  -- the command's word consumed, the sink's turn and `ts` to come
  obtain ⟨q', hhead, hcommute⟩ := afterCommand_deliver_endTurn (decode w)
    (s := { s with cmdIn := ws, agenda := .sink :: ts }) hq
  have hblock : step { s with agenda := .block :: .sink :: ts } =
      .next (afterCommand (decode w) { s with cmdIn := ws, agenda := .sink :: ts }) :=
    (step_of_accepted (s := { s with agenda := .block :: .sink :: ts }) rfl hc ha).trans (exec_eq_next _ _)
  have hsink : step { s with agenda := .sink :: .block :: ts } =
      .next (deliver b q { s with agenda := .block :: ts }) :=
    step_of_sink_cons rfl hlow hq
  have hblockSink := (runSteps_two_of_step hblock).trans
    (step_of_sink_cons (by simp [currentTurn]) (by simpa using hlow) hhead)
  refine ⟨_, hblockSink, ?_, by simp, by simp⟩
  rw [runSteps_two_of_step hsink, ← hcommute]
  have hroom : acceptEnabled Config.outqCap (decode w) (deliver b q s) = true := acceptEnabled_deliver hq ha
  exact (step_of_accepted (s := deliver b q { s with agenda := .block :: ts }) rfl hc hroom).trans (exec_eq_next _ _)

/-! ### Instances (R78) -/

/-- A step of an instance that is there puts its next state in its place. -/
theorem stepInstance_of_step {caps : Nat → Nat} {n : Nat} {bank : List State} {s t : State} (hs : bank[n]? = some s)
    (ht : stepWith (caps n) s = .next t) : stepInstance caps n bank = .next (bank.set n t) := by
  simp [stepInstance, hs, ht]

/-- Settles O52: only the place of instance `n` in the list is written. -/
theorem instancesShareNothing : Obligations.InstancesShareNothing := by
  unfold Obligations.InstancesShareNothing
  intro caps n bank s hs
  obtain ⟨t, ht⟩ := stepWith_completes (caps n) s
  obtain ⟨hn, -⟩ := List.getElem?_eq_some_iff.mp hs
  exact ⟨t, bank.set n t, ht, stepInstance_of_step hs ht, List.getElem?_set_self hn,
    fun m hm => List.getElem?_set_ne hm.symm⟩

end Sys2Proof.Machine
end

section
/-! PROOFS. The reset (spec/70_reset_and_hazards.md R80, R81, R84), and frames that join (R86). -/

namespace Sys2Proof.Machine

/-! ### The turn that asserts the reset (R80, R84) -/

/-- Asserting `rst` resets the block, whether or not `rst` was high before (R80). -/
theorem step_of_assert {s : State} (hturn : currentTurn s = .reset true) :
    step s = .next (resetBlock { endTurn s with rst := true }) := by
  cases hr : s.rst with
  | true =>
    rw [step_of_high hr, hturn]
    rfl
  | false =>
    rw [step_of_low hr, hturn]
    rfl

theorem Turn.assertsReset_eq_false_iff {u : Turn} : u.assertsReset = false ↔ u ≠ .reset true := by
  cases u <;> simp [assertsReset]

/-- Settles O19: with `rst` low and no reset asserted, a recorded error is kept (O10), and of the effects of a step only an
accepted END takes `st` from FRAME to IDLE. -/
theorem onlyResetClearsAndAbandons : Obligations.OnlyResetClearsAndAbandons := by
  unfold Obligations.OnlyResetClearsAndAbandons
  refine ⟨fun s => step_of_assert, fun s t hlow hturn h herr => ?_, fun s t hlow hturn h hframe hidle => ?_⟩
  · exact (step_keeps_errorRecorded ⟨hlow, herr, rfl⟩ (Turn.assertsReset_eq_false_iff.mpr hturn) h).2
  · have hchanged : t.st ≠ s.st := by simp [hframe, hidle]
    rcases step_effect_of_low hlow h with ⟨hreset, -⟩ | ⟨w, ws, hblock, hc, ha, rfl⟩ | ⟨hst, -⟩
    · exact absurd hreset hturn
    · rcases afterCommand_st_changed hchanged with ⟨-, -, hopen⟩ | ⟨hend, -, -⟩
      · simp [hopen] at hidle
      · exact ⟨w, ws, hblock, hc, hend, hend ▸ ha⟩
    · exact absurd hst hchanged

/-- Settles O21: the reset empties `outq` and leaves the bytes taken. -/
theorem resetTruncatesTheOutputStream : Obligations.ResetTruncatesTheOutputStream := by
  unfold Obligations.ResetTruncatesTheOutputStream
  intro s t hturn h
  rw [step_of_assert hturn] at h
  injection h with h
  subst h
  simp [outputStream]

/-! ### Joined frames (R86) -/

/-- Settles O35: the second START only records its error, so the second payload goes on where the first one ended. -/
theorem interleavedFramesJoin : Obligations.InterleavedFramesJoin := by
  unfold Obligations.InterleavedFramesJoin
  intro p q s hs
  have hopen : (setSt .frame (emit preamble (setCrc crcInit s))).st = .frame := setSt_st ..
  rw [List.append_assoc, List.cons_append, execAll_cons, afterCommand_start_idle hs,
    execAll_append_of_next (execAll_data p hopen), List.cons_append, execAll_cons,
    afterCommand_start_frame (by simp), execAll_append_of_next (execAll_data q (by simp)), execAll_cons,
    afterCommand_endFrame_frame (by simp), execAll]
  refine congrArg Host.Outcome.next ?_
  ext1
  case cause => rfl
  all_goals simp [crc16Modbus, encodeFrame]

end Sys2Proof.Machine
end

section
/-! PROOFS. Runs in which nothing but the producer acts: while a command lacks room (spec/70_reset_and_hazards.md R85), and
while `rst` is high (R81). -/

namespace Sys2Proof.Machine

/-- The state after `k` turns that had no effect but to present their words (R60). -/
def waitTurns (k : Nat) (s : State) : State :=
  { s with cmdIn := s.cmdIn ++ (s.agenda.take k).flatMap Turn.presents, agenda := s.agenda.drop k }

theorem waitTurns_zero (s : State) : waitTurns 0 s = s := by
  ext1 <;> simp [waitTurns]

theorem waitTurns_waitTurns (m n : Nat) (s : State) : waitTurns m (waitTurns n s) = waitTurns (m + n) s := by
  rw [Nat.add_comm]
  simp [waitTurns, List.take_add]

/-- One such turn presents the current turn's words. -/
theorem waitTurns_one (s : State) :
    waitTurns 1 s = { endTurn s with cmdIn := s.cmdIn ++ (currentTurn s).presents } := by
  cases ha : s.agenda <;> simp [waitTurns, endTurn, currentTurn, ha, Turn.presents]

/-- Allowed turns are an allowed current turn and allowed turns after it. -/
theorem allowed_of_take_succ {A : Turn → Prop} (hA : A .block) {k : Nat} {s : State}
    (h : ∀ u ∈ s.agenda.take (k + 1), A u) : A (currentTurn s) ∧ ∀ u ∈ s.agenda.tail.take k, A u := by
  cases ha : s.agenda with
  | nil => simpa [currentTurn, ha] using hA
  | cons v vs => simpa [currentTurn, ha] using h

/-- If an allowed turn only presents its words in a state of `P`, and `P` is kept by that, a run of allowed turns only
presents their words. -/
theorem runSteps_waits {P : State → Prop} {A : Turn → Prop} (hA : A .block) (hkeep : ∀ s, P s → P (waitTurns 1 s))
    (hstep : ∀ s, P s → A (currentTurn s) → step s = .next (waitTurns 1 s)) {k : Nat} {s t : State} (hs : P s)
    (hturns : ∀ u ∈ s.agenda.take k, A u) (h : runSteps k s = .next t) : P t ∧ t = waitTurns k s := by
  induction k generalizing s with
  | zero =>
    injection h with h
    subst h
    exact ⟨hs, (waitTurns_zero s).symm⟩
  | succ k ih =>
    obtain ⟨hturn, hrest⟩ := allowed_of_take_succ hA hturns
    rw [runSteps, hstep s hs hturn] at h
    rw [← waitTurns_waitTurns]
    exact ih (hkeep s hs) (by simpa [waitTurns] using hrest) h

/-- A turn that makes the block, the sink and the reset input do nothing only presents its words. -/
theorem takeTurn_waits {cap : Nat} {u : Turn} {s : State} (hblock : blockTurn cap s = .next s)
    (hsink : u = .sink → sinkTake s = s) (hreset : ∀ level, u = .reset level → driveRst level s = s) :
    takeTurn cap u s = .next { s with cmdIn := s.cmdIn ++ u.presents } := by
  cases u with
  | block => simpa [takeTurn, Turn.presents] using hblock
  | sink => simp [takeTurn, Turn.presents, hsink rfl]
  | present w => rfl
  | reset level => simp [takeTurn, Turn.presents, hreset level rfl]

/-! ### The command that lacks room (R85) -/

/-- New words come behind the one that waits. -/
theorem blocked_waitTurns {s : State} (k : Nat) (h : s.Blocked) : (waitTurns k s).Blocked := by
  obtain ⟨w, ws, hc, hlow, hfull⟩ := h
  exact ⟨w, ws ++ (s.agenda.take k).flatMap Turn.presents, by simp [waitTurns, hc], hlow, hfull⟩

theorem blockTurn_of_blocked {s : State} (h : s.Blocked) : blockTurn Config.outqCap s = .next s := by
  obtain ⟨w, ws, hc, -, hfull⟩ := h
  refine blockTurn_wait hc (Bool.eq_false_iff.mpr fun ha => ?_)
  exact absurd (acceptEnabled_iff.mp ha).2 (Nat.not_le_of_lt hfull)

/-- While a command lacks room, only the sink and an asserted reset do more than present words. -/
theorem step_of_blocked {s : State} (h : s.Blocked)
    (hturn : currentTurn s ≠ .sink ∧ (currentTurn s).assertsReset = false) : step s = .next (waitTurns 1 s) := by
  obtain ⟨hsink, hassert⟩ := hturn
  have ⟨_, _, _, hlow, _⟩ := h
  rw [step_of_low hlow, waitTurns_one]
  refine takeTurn_waits (s := endTurn s) (blockTurn_of_blocked h) (fun hc => absurd hc hsink) fun level hc => ?_
  obtain rfl : level = false := by simpa [hc, Turn.assertsReset] using hassert
  ext1 <;> simp [hlow]

/-- Settles O16. -/
theorem stuckWhileTheSinkTakesNothing : Obligations.StuckWhileTheSinkTakesNothing := by
  unfold Obligations.StuckWhileTheSinkTakesNothing
  intro k s t hb hturns h
  exact runSteps_waits (P := State.Blocked) (A := fun u => u ≠ .sink ∧ u.assertsReset = false) ⟨by simp, rfl⟩
    (fun _ => blocked_waitTurns 1) (fun _ => step_of_blocked) hb hturns h

/-! ### The high reset input (R81) -/

theorem acceptEnabled_of_high {cap : Nat} {i : Instr} {s : State} (hr : s.rst = true) : acceptEnabled cap i s = false := by
  simp [acceptEnabled, hr]

theorem cmdReady_of_high {cap : Nat} {s : State} (hr : s.rst = true) : cmdReady cap s = false := by
  cases hc : s.cmdIn with
  | nil => simp [cmdReady, hc, hr]
  | cons w ws => exact (cmdReady_cons hc).trans (acceptEnabled_of_high hr)

theorem blockTurn_of_high {cap : Nat} {s : State} (hr : s.rst = true) : blockTurn cap s = .next s := by
  cases hc : s.cmdIn with
  | nil => exact blockTurn_idle hc
  | cons w ws => exact blockTurn_wait hc (acceptEnabled_of_high hr)

theorem sinkTake_of_high {s : State} (hr : s.rst = true) : sinkTake s = s := by
  simp [sinkTake, hr]

/-- A step with `rst` high starts at the reset values, and only the release of `rst` does more than present words. -/
theorem step_of_high_unreleased {s : State} (hr : s.rst = true) (hturn : (currentTurn s).releasesReset = false) :
    step s = .next (waitTurns 1 (resetBlock s)) := by
  have hhigh : (endTurn (resetBlock s)).rst = true := hr
  rw [step_of_high hr, waitTurns_one]
  refine takeTurn_waits (blockTurn_of_high hhigh) (fun _ => sinkTake_of_high hhigh) fun level hc => ?_
  obtain rfl : level = true := by simpa [hc, Turn.releasesReset] using hturn
  ext1 <;> simp [hr]

theorem resetBlock_of_atResetValues {s : State} (h : s.atResetValues) : resetBlock s = s := by
  obtain ⟨hst, hcrc, herr, hcause, houtq⟩ := h
  ext1 <;> simp [hst, hcrc, herr, hcause, houtq]

/-- A run of at least one step with `rst` high is a run from the reset values. -/
theorem runSteps_succ_of_high (k : Nat) {s : State} (hr : s.rst = true) :
    runSteps (k + 1) s = runSteps (k + 1) (resetBlock s) := by
  have hstep : step s = step (resetBlock s) := by
    rw [step_of_high hr, step_of_high (s := resetBlock s) hr]
    rfl
  rw [runSteps, runSteps, hstep]

/-- `rst` is high and holds the block at its reset values. -/
def HeldInReset (s : State) : Prop := s.rst = true ∧ s.atResetValues

/-- While `rst` is not released, a run from a state with `rst` high only presents words to the block in reset. -/
theorem runSteps_of_high {k : Nat} {s t : State} (hr : s.rst = true)
    (hturns : ∀ u ∈ s.agenda.take (k + 1), u.releasesReset = false) (h : runSteps (k + 1) s = .next t) :
    HeldInReset t ∧ t = waitTurns (k + 1) (resetBlock s) := by
  rw [runSteps_succ_of_high k hr] at h
  refine runSteps_waits (P := HeldInReset) (A := fun u => u.releasesReset = false) rfl (fun _ hs => hs) ?_
    ⟨hr, resetBlock_atResetValues s⟩ hturns h
  intro u ⟨hhigh, hreset⟩ hturn
  rw [step_of_high_unreleased hhigh hturn, resetBlock_of_atResetValues hreset]

/-- The turn that releases `rst` leaves the block at its reset values (R81). -/
theorem step_of_release {s : State} (hr : s.rst = true) (hturn : currentTurn s = .reset false) :
    step s = .next (driveRst false (endTurn (resetBlock s))) := by
  rw [step_of_high hr, hturn, takeTurn]

/-- Settles O20: a run with `rst` high only presents words, and the queue that the reset emptied has room for the waiting
command. -/
theorem highResetHoldsTheBlock : Obligations.HighResetHoldsTheBlock := by
  unfold Obligations.HighResetHoldsTheBlock
  refine ⟨fun k s t hr hturns h => ?_, fun s w ws ts hr hc hagenda => ?_⟩
  · obtain ⟨⟨hhigh, hreset⟩, ht⟩ := runSteps_of_high hr hturns h
    exact ⟨hreset, hhigh, by rw [ht]; rfl, by rw [ht]; rfl, cmdReady_of_high hhigh, by simp [outValid, hhigh]⟩
  · have hrelease := step_of_release hr (by simp [currentTurn, hagenda])
    have hturn : currentTurn (driveRst false (endTurn (resetBlock s))) = .block := by simp [currentTurn, hagenda]
    rw [runSteps_two_of_step hrelease,
      step_of_accepted hturn hc (acceptEnabled_of_empty_queue (decode w) rfl rfl)]
    refine congrArg (exec (decode w)) ?_
    ext1 <;> simp [hagenda]

end Sys2Proof.Machine
end

section
/-! PROOFS. The decode vectors (spec/95_test_vectors.md section 2.1). -/

namespace Sys2Proof

/-- Settles O48: each word of the table is its `op` and its `d` side by side, so each is one row of R31. -/
theorem decodeVectors : Obligations.DecodeVectors :=
  ⟨decode_op_nop 0x00#8, decode_op_nop 0xFF#8, decode_op_start 0x00#8, decode_op_start 0xA5#8,
    decode_op_data 0x00#8, decode_op_data 0xEE#8, decode_op_data 0xFF#8, decode_op_end 0x00#8, decode_op_end 0xFF#8⟩

end Sys2Proof
end
